-- ==== Sys2Proof/Word.lean ====
section
/-! DEFINITION. The byte of the links, and the little-endian bytes of a number. -/

namespace Sys2Proof

/-- One character's eight data bits (R140); a frame is a list of these (R141). -/
abbrev Byte := BitVec 8

/-- The two-byte check sequence of a frame (R143). -/
abbrev Crc := BitVec 16

/-- A byte from a number, keeping its low eight bits. -/
def Byte.ofNat (n : Nat) : Byte := BitVec.ofNat 8 n

/-- `n` in `w` bytes, low byte first (R141). -/
def lowFirst : Nat → Nat → List Byte
  | 0, _ => []
  | w + 1, n => Byte.ofNat n :: lowFirst w (n / 256)

/-- The number whose bytes, low byte first, are given (R141). -/
def ofLowFirst : List Byte → Nat
  | [] => 0
  | b :: bs => b.toNat + 256 * ofLowFirst bs

end Sys2Proof
end

