-- ==== Sys2Proof/Config.lean ====
section
/-! DEFINITION. What the spec fixes for the part once and for all, and the free values: constants with no body, so that
nothing in Lean can tell what they are. A claim that holds of them holds of every value. -/

namespace Sys2Proof.Config

/-- The range of the make clock: 0 to 4,294,967,295 s (00_scope 6.1). -/
abbrev clockRange : Nat := 4294967296

/-- A receive buffer holds up to 2 frames (R147). -/
abbrev receiveRoom : Nat := 2

/-- A transmit queue holds up to 16 messages (R148). -/
abbrev transmitRoom : Nat := 16

/-- A frame holds at most 53 unescaped bytes between its delimiters (R141, R144). -/
abbrev frameRoom : Nat := 53

/-- The lot list holds at most 12 lots (R119). -/
abbrev lotRoom : Nat := 12

/-- The early window holds the last 8 completed dumps (R135). -/
abbrev windowRoom : Nat := 8

/-- FREE VALUE. The make-clock value of `t + d` when the sum lies past the clock's range, which the spec says does not
come about in service and gives no value for (R2, 00_scope 6.1; log 8). -/
opaque clockPast : Nat → Nat → BitVec 32

/-- FREE VALUE. Which of the steps the part can make by itself comes next, drawn with the state's free counter (log 2). -/
opaque choice : Nat → Nat

/-- FREE VALUE. The order in which several banks, or several links, act within one step, drawn with the state's free
counter (log 17). -/
opaque order : Nat → Nat

/-- FREE VALUE. The level of the EDIT line when the part takes a request by itself, drawn with the state's free counter
(log 5). -/
opaque editLevel : Nat → Bool

end Sys2Proof.Config
end

