-- ==== Sys2Proof/Syntax.lean ====
section
/-! DEFINITION. The commands of the block: one constructor of Instr for each row of spec/opcode_table.json, with what the
row's event names. The 47 rows in which the request handler takes a request carry the link and the level of the EDIT line
that the handler reads in that step (R154); the request's own fields are the payload of the frame at the head of that
link's receive buffer (R147, R156 to R159). -/

namespace Sys2Proof

/-- The four links, named by their stations (00_scope section 3). -/
inductive Link
  | fill
  | cut
  | press
  | console
deriving DecidableEq, Repr

/-- A vat, 1 to 24; the value is one less than its number (00_scope 6.3). -/
abbrev Vat := Fin 24

/-- A make slot, 1 to 32; the value is one less than its number. -/
abbrev Slot := Fin 32

/-- A manifold bank, 1 to 4; the value is one less than its number. -/
abbrev Bank := Fin 4

/-- A cutting carriage, 1 to 2; the value is one less than its number. -/
abbrev Carriage := Fin 2

/-- A recipe class, 0 to 7. -/
abbrev RecipeClass := Fin 8

/-- What a link's receive line delivers (R140, R144): a character, or one whose stop bit is found at space. -/
inductive Character
  | byte (b : Byte)
  | error
deriving DecidableEq, Repr

/-- The request rows of the table: what a frame at the head of a receive buffer asks for (R156 to R159). QUERY is eight
rows by its subject, CLEAR three by its resource, MAP SLOT two by whether it names a vat. -/
inductive Request
  | unknownKindRequest
  | status
  | fillOrder
  | fillCancel
  | fillResume
  | setSlot
  | vatQuery
  | cutStarted
  | cutDone
  | cutRefused
  | carriageBlock
  | carriageUnblock
  | routinePause
  | routineResume
  | dumpStarted
  | dumpDone
  | dumpRefused
  | lotClosed
  | mouldsLow
  | mouldsReady
  | queryVat
  | queryBank
  | queryCarriage
  | queryCutLists
  | queryLine
  | queryLotList
  | queryDumpLists
  | queryEarlyWindow
  | get
  | hold
  | release
  | stepMode
  | step
  | dumpEarly
  | releaseOverset
  | discard
  | abandonLot
  | freeze
  | clearBank
  | clearCarriage
  | clearLine
  | set
  | mapSlot
  | unmapSlot
  | service
  | declare
  | restart
deriving DecidableEq, Repr

/-- The commands: one constructor for each row of spec/opcode_table.json. -/
inductive Instr
  /-- POWER_ON_RESET (R172). -/
  | powerOnReset (resetn rate1 rate0 : Bool) (proved : Vector Bool 4)
  /-- RESETN_ASSERTED (R172). -/
  | resetnAsserted
  /-- RESET_RELEASE (R172). -/
  | resetRelease (rate1 rate0 : Bool)
  /-- FRAME_CLOSED (R145). -/
  | frameClosed (link : Link)
  /-- FRAME_ABANDONED (R146). -/
  | frameAbandoned (link : Link)
  /-- BREAK (R150). -/
  | lineBreak (link : Link)
  /-- PRESENCE_TIMEOUT (R151). -/
  | presenceTimeout (link : Link)
  /-- FRAME_SEND_START (R148). -/
  | frameSendStart (link : Link)
  /-- FRAME_SENT (R153). -/
  | frameSent (link : Link)
  /-- UNKNOWN_KIND_REQUEST (R155). -/
  | unknownKindRequest (link : Link) (edit : Bool)
  /-- STATUS (R166). -/
  | status (link : Link) (edit : Bool)
  /-- FILL_ORDER (R23). -/
  | fillOrder (link : Link) (edit : Bool)
  /-- FILL_CANCEL (R26). -/
  | fillCancel (link : Link) (edit : Bool)
  /-- FILL_RESUME (R61). -/
  | fillResume (link : Link) (edit : Bool)
  /-- SET_SLOT (R28). -/
  | setSlot (link : Link) (edit : Bool)
  /-- VAT_QUERY (R19). -/
  | vatQuery (link : Link) (edit : Bool)
  /-- CUT_STARTED (R99). -/
  | cutStarted (link : Link) (edit : Bool)
  /-- CUT_DONE (R105). -/
  | cutDone (link : Link) (edit : Bool)
  /-- CUT_REFUSED (R102). -/
  | cutRefused (link : Link) (edit : Bool)
  /-- CARRIAGE_BLOCK (R107). -/
  | carriageBlock (link : Link) (edit : Bool)
  /-- CARRIAGE_UNBLOCK (R107). -/
  | carriageUnblock (link : Link) (edit : Bool)
  /-- ROUTINE_PAUSE (R108). -/
  | routinePause (link : Link) (edit : Bool)
  /-- ROUTINE_RESUME (R108). -/
  | routineResume (link : Link) (edit : Bool)
  /-- DUMP_STARTED (R124). -/
  | dumpStarted (link : Link) (edit : Bool)
  /-- DUMP_DONE (R128). -/
  | dumpDone (link : Link) (edit : Bool)
  /-- DUMP_REFUSED (R125). -/
  | dumpRefused (link : Link) (edit : Bool)
  /-- LOT_CLOSED (R132). -/
  | lotClosed (link : Link) (edit : Bool)
  /-- MOULDS_LOW (R133). -/
  | mouldsLow (link : Link) (edit : Bool)
  /-- MOULDS_READY (R133). -/
  | mouldsReady (link : Link) (edit : Bool)
  /-- QUERY_VAT (R18). -/
  | queryVat (link : Link) (edit : Bool)
  /-- QUERY_BANK (R72). -/
  | queryBank (link : Link) (edit : Bool)
  /-- QUERY_CARRIAGE (R114). -/
  | queryCarriage (link : Link) (edit : Bool)
  /-- QUERY_CUT_LISTS (R114). -/
  | queryCutLists (link : Link) (edit : Bool)
  /-- QUERY_LINE (R138). -/
  | queryLine (link : Link) (edit : Bool)
  /-- QUERY_LOT_LIST (R138). -/
  | queryLotList (link : Link) (edit : Bool)
  /-- QUERY_DUMP_LISTS (R138). -/
  | queryDumpLists (link : Link) (edit : Bool)
  /-- QUERY_EARLY_WINDOW (R138). -/
  | queryEarlyWindow (link : Link) (edit : Bool)
  /-- GET (R163). -/
  | get (link : Link) (edit : Bool)
  /-- HOLD (R13). -/
  | hold (link : Link) (edit : Bool)
  /-- RELEASE (R13). -/
  | release (link : Link) (edit : Bool)
  /-- STEP_MODE (R15). -/
  | stepMode (link : Link) (edit : Bool)
  /-- STEP (R31). -/
  | step (link : Link) (edit : Bool)
  /-- DUMP_EARLY (R40). -/
  | dumpEarly (link : Link) (edit : Bool)
  /-- RELEASE_OVERSET (R37). -/
  | releaseOverset (link : Link) (edit : Bool)
  /-- DISCARD (R46). -/
  | discard (link : Link) (edit : Bool)
  /-- ABANDON_LOT (R130). -/
  | abandonLot (link : Link) (edit : Bool)
  /-- FREEZE (R167). -/
  | freeze (link : Link) (edit : Bool)
  /-- CLEAR_BANK (R68). -/
  | clearBank (link : Link) (edit : Bool)
  /-- CLEAR_CARRIAGE (R112). -/
  | clearCarriage (link : Link) (edit : Bool)
  /-- CLEAR_LINE (R131). -/
  | clearLine (link : Link) (edit : Bool)
  /-- SET (R164). -/
  | set (link : Link) (edit : Bool)
  /-- MAP_SLOT (R7). -/
  | mapSlot (link : Link) (edit : Bool)
  /-- UNMAP_SLOT (R8). -/
  | unmapSlot (link : Link) (edit : Bool)
  /-- SERVICE (R9). -/
  | service (link : Link) (edit : Bool)
  /-- DECLARE (R17). -/
  | declare (link : Link) (edit : Bool)
  /-- RESTART (R170). -/
  | restart (link : Link) (edit : Bool)
  /-- CUT_OPEN_REACHED (R30). -/
  | cutOpenReached (vat : Vat)
  /-- URGENCY_MOMENT (R32). -/
  | urgencyMoment (vat : Vat)
  /-- CUT_CLOSE_REACHED (R33). -/
  | cutCloseReached (vat : Vat)
  /-- HEAL_MIN_REACHED (R38). -/
  | healMinReached (vat : Vat)
  /-- HEAL_MAX_REACHED (R39). -/
  | healMaxReached (vat : Vat)
  /-- PROVED_RISE (R56). -/
  | provedRise (bank : Bank)
  /-- PROVED_FALL (R58). -/
  | provedFall (bank : Bank)
  /-- FLOW_PULSE (R59). -/
  | flowPulse (bank : Bank)
  /-- TRAVEL_TIMER_EXPIRY (R66). -/
  | travelTimerExpiry (bank : Bank)
  /-- DRAIN_TIMER_EXPIRY (R58). -/
  | drainTimerExpiry (bank : Bank)
  /-- PATH_OPEN_LIMIT (R63). -/
  | pathOpenLimit (bank : Bank)
  /-- NO_FLOW_TIMER_EXPIRY (R60). -/
  | noFlowTimerExpiry (bank : Bank)
  /-- FLUSH_TIMER_EXPIRY (R75). -/
  | flushTimerExpiry (bank : Bank)
  /-- RINSE_COUNTER_MATCH (R78). -/
  | rinseCounterMatch (bank : Bank)
  /-- RINSE_TIMER_EXPIRY (R80). -/
  | rinseTimerExpiry (bank : Bank)
  /-- PARK_TIMER_EXPIRY (R84). -/
  | parkTimerExpiry (bank : Bank)
  /-- PARK_DRAIN_END (R84). -/
  | parkDrainEnd (bank : Bank)
  /-- CUT_START_TIMER_EXPIRY (R101). -/
  | cutStartTimerExpiry (carriage : Carriage)
  /-- SLICE_TIMER_EXPIRY (R104). -/
  | sliceTimerExpiry (carriage : Carriage)
  /-- DUMP_START_TIMER_EXPIRY (R125). -/
  | dumpStartTimerExpiry
  /-- DUMP_DURATION_EXPIRY (R127). -/
  | dumpDurationExpiry
  /-- CHARACTER_RECEIVED (R144). -/
  | characterReceived (link : Link) (c : Character)
  /-- LINE_RETURNED_TO_MARK (R150). -/
  | lineReturnedToMark (link : Link)
deriving DecidableEq, Repr

/-- The command in which the request handler takes a request of a row from a link. -/
def Instr.ofRequest (link : Link) (edit : Bool) : Request → Instr
  | .unknownKindRequest => .unknownKindRequest link edit
  | .status => .status link edit
  | .fillOrder => .fillOrder link edit
  | .fillCancel => .fillCancel link edit
  | .fillResume => .fillResume link edit
  | .setSlot => .setSlot link edit
  | .vatQuery => .vatQuery link edit
  | .cutStarted => .cutStarted link edit
  | .cutDone => .cutDone link edit
  | .cutRefused => .cutRefused link edit
  | .carriageBlock => .carriageBlock link edit
  | .carriageUnblock => .carriageUnblock link edit
  | .routinePause => .routinePause link edit
  | .routineResume => .routineResume link edit
  | .dumpStarted => .dumpStarted link edit
  | .dumpDone => .dumpDone link edit
  | .dumpRefused => .dumpRefused link edit
  | .lotClosed => .lotClosed link edit
  | .mouldsLow => .mouldsLow link edit
  | .mouldsReady => .mouldsReady link edit
  | .queryVat => .queryVat link edit
  | .queryBank => .queryBank link edit
  | .queryCarriage => .queryCarriage link edit
  | .queryCutLists => .queryCutLists link edit
  | .queryLine => .queryLine link edit
  | .queryLotList => .queryLotList link edit
  | .queryDumpLists => .queryDumpLists link edit
  | .queryEarlyWindow => .queryEarlyWindow link edit
  | .get => .get link edit
  | .hold => .hold link edit
  | .release => .release link edit
  | .stepMode => .stepMode link edit
  | .step => .step link edit
  | .dumpEarly => .dumpEarly link edit
  | .releaseOverset => .releaseOverset link edit
  | .discard => .discard link edit
  | .abandonLot => .abandonLot link edit
  | .freeze => .freeze link edit
  | .clearBank => .clearBank link edit
  | .clearCarriage => .clearCarriage link edit
  | .clearLine => .clearLine link edit
  | .set => .set link edit
  | .mapSlot => .mapSlot link edit
  | .unmapSlot => .unmapSlot link edit
  | .service => .service link edit
  | .declare => .declare link edit
  | .restart => .restart link edit

end Sys2Proof
end

