-- ==== Sys2Proof/WellFormed.lean ====
section
/-! DEFINITION. Which commands can stand for an event of the part. Most operands are in their ranges by their types; what
the types do not say is checked here. A command that is not well formed has no effect (log 3). -/

namespace Sys2Proof

/-- A command is well formed when the part has the event it names: the Console link keeps no presence and its presence
timer does not run (R151), so no presence timeout is an event of that link. -/
def Instr.wellFormed : Instr → Bool
  | .presenceTimeout .console => false
  | _ => true

end Sys2Proof
end

