-- ==== Sys2Proof/Decode.lean ====
section
/-! DEFINITION. The command a word of the table's bits spells. The part decodes no words: no row of
spec/opcode_table.json gives any bits, so no word spells a command. -/

namespace Sys2Proof

/-- The command that the table's bits spell in `w`: none, since the table gives no row any bits. -/
def decodeTableWord (_nbits _w : Nat) : Option Instr := none

end Sys2Proof
end

