-- ==== Sys2Proof/Machine/State.lean ====
section
/-! DEFINITION. Everything the spec gives the part to hold, as plain data, and the state right after a reset. INVENTORY.md
lists each piece with the rule that names it. -/

namespace Sys2Proof.Machine

/-! ### Names the manual gives (their codes are in Machine/Coding.lean) -/

/-- The twelve stages of a vat (R20). -/
inductive Stage
  | vacant | fillQueued | filling | charged | setting | cutWindow | cutting | working | dumpQueued | dumping | washing
  | overset
deriving DecidableEq, Repr

/-- Whether a vat is IN or OUT of production use (R1, R9). -/
inductive Service
  | inUse | outOfUse
deriving DecidableEq, Repr

/-- Which timed advance waits for the operator (R1, R15). -/
inductive StepPending
  | nothing | cutOpen | healMin
deriving DecidableEq, Repr

/-- The kind of a transfer (R53). -/
inductive TransferKind
  | fill | wash
deriving DecidableEq, Repr

/-- The phase of a current transfer (R53). -/
inductive Phase
  | openingPath | running | stalled
deriving DecidableEq, Repr

/-- The nine states of a bank (R50); `opened` is OPEN. -/
inductive BankState
  | start | priming | ready | opening | opened | closing | rinsing | parked | faulted
deriving DecidableEq, Repr

/-- Why a bank closes its path (R50, R58). -/
inductive CloseCause
  | miss | limit | rinse
deriving DecidableEq, Repr

/-- The two phases of a close (R58). -/
inductive ClosePhase
  | travel | drain
deriving DecidableEq, Repr

/-- Why a bank is faulted (R50, R65, R66, R74). -/
inductive BankFaultCause
  | prime | valve | stray
deriving DecidableEq, Repr

/-- The two phases of the start sequence (R73 to R75). -/
inductive StartPhase
  | prove | flush
deriving DecidableEq, Repr

/-- The four states of a carriage (R89). -/
inductive CarriageState
  | free | ordered | cutting | faulted
deriving DecidableEq, Repr

/-- Why a carriage is faulted (R89, R111). -/
inductive CarriageFaultCause
  | strikes | slice
deriving DecidableEq, Repr

/-- The two cut lists (R91). -/
inductive CutList
  | urgent | openList
deriving DecidableEq, Repr

/-- Why a cut order was withdrawn (R100). -/
inductive WithdrawCause
  | cutClose | startLimit | refused | blocked | absent
deriving DecidableEq, Repr

/-- The four states of the curd line (R116). -/
inductive LineState
  | free | ordered | running | faulted
deriving DecidableEq, Repr

/-- Why the curd line is faulted (R116). -/
inductive LineFaultCause
  | duration
deriving DecidableEq, Repr

/-- The kind of a dump entry (R117). -/
inductive EntryKind
  | normal | waste
deriving DecidableEq, Repr

/-- The kind of a lot (R122). -/
inductive LotKind
  | normal | late | waste
deriving DecidableEq, Repr

/-- The state of a lot (R122). -/
inductive LotState
  | ordered | running | pressing
deriving DecidableEq, Repr

/-- Why a dump order was withdrawn (R125). -/
inductive DumpWithdrawCause
  | startLimit | refused
deriving DecidableEq, Repr

/-- Why a station became ABSENT (R151). -/
inductive AbsentCause
  | timeout | lineBreak
deriving DecidableEq, Repr

/-- The results a reply carries (00_scope section 8, R160). -/
inductive Result
  | done | doneLate | busy | stage | unmapped | service | conflict | held | late | tag | allowance | faulted | range
  | role | permit | length | unknown
deriving DecidableEq, Repr

/-! ### Records -/

/-- A timer with the limit it was started against: it expires when its count of seconds reaches the limit (R173). -/
structure Timer where
  count : Nat
  limit : Nat
deriving DecidableEq, Repr

/-- The four times of a recipe class, in seconds (R10), and a vat record's private copy of them (R12). -/
structure ClassTimes where
  firmMin : Nat
  firmMax : Nat
  healMin : Nat
  healMax : Nat
deriving DecidableEq, Repr

/-- One vat record (R1), without its number, which is its place in the table. `healMaxFirst` says that the heal-max event
was applied to the WORKING vat in the second in which heal-min and heal-max fall due together: what R39's ruling on the two
orders needs (log 37). -/
structure VatRecord where
  service : Service
  stage : Stage
  slot : Option Slot
  batch : Option Nat
  recipe : Option RecipeClass
  snapshot : Option ClassTimes
  target : Option Nat
  filled : Nat
  setTime : Option Nat
  cutOpen : Option Nat
  cutClose : Option Nat
  cutDone : Option Nat
  healMin : Option Nat
  healMax : Option Nat
  held : Bool
  stepMode : Bool
  stepPending : StepPending
  carriage : Option Carriage
  lot : Option Nat
  early : Bool
  waste : Bool
  declared : Bool
  healMaxFirst : Bool
deriving DecidableEq, Repr

/-- An entry of a bank's transfer list (R53). -/
structure Transfer where
  vat : Vat
  kind : TransferKind
  target : Nat
  volume : Nat
  resumed : Bool
deriving DecidableEq, Repr

/-- A bank's current transfer: the entry taken, with its phase and its cancel mark (R53). -/
structure Current where
  entry : Transfer
  phase : Phase
  cancel : Bool
deriving DecidableEq, Repr

/-- The path-open timer's count, and the make clock, when the bank drove OPEN off to begin a close with the path-open limit
already due: what R52 and R63 need to apply that limit after the close (log 21). -/
structure StoppedPath where
  clock : Nat
  count : Nat
deriving DecidableEq, Repr

/-- One bank controller's state (R50, R73). A timer that is not running is `none`. -/
structure BankRecord where
  state : BankState
  path : Option Vat
  current : Option Current
  list : List Transfer
  closeCause : Option CloseCause
  closePhase : Option ClosePhase
  travel : Option Timer
  drain : Option Timer
  pathOpen : Option Nat
  stoppedPath : Option StoppedPath
  noFlow : Option Timer
  faultCause : Option BankFaultCause
  startPhase : Option StartPhase
  flushesDone : Option Nat
  flush : Option Timer
  rinse : Option Timer
  rinseCount : Nat
  rinsePending : Bool
  rinseOverdue : Bool
  park : Option Nat
  parkDrain : Option Bool
  parkPulse : Option Timer
deriving DecidableEq, Repr

/-- An entry of a cut list (R91). -/
structure CutEntry where
  vat : Vat
  slot : Option Slot
  cutClose : Option Nat
  joined : Nat
deriving DecidableEq, Repr

/-- One carriage record (R89); its reach stands in the settings store (R90). -/
structure CarriageRecord where
  state : CarriageState
  blocked : Bool
  vat : Option Vat
  tag : Option Nat
  orderedAt : Option Nat
  startedAt : Option Nat
  faultCause : Option CarriageFaultCause
  freeSince : Nat
  missed : Nat
  start : Option Timer
  slice : Option Timer
deriving DecidableEq, Repr

/-- An entry of a dump list (R117). -/
structure DumpEntry where
  vat : Vat
  slot : Option Slot
  kind : EntryKind
  early : Bool
  joined : Nat
deriving DecidableEq, Repr

/-- A lot record (R122). -/
structure Lot where
  number : Nat
  vat : Vat
  slot : Option Slot
  batch : Option Nat
  kind : LotKind
  early : Bool
  expected : Nat
  received : Option Nat
  short : Bool
  state : LotState
  granted : Nat
deriving DecidableEq, Repr

/-- A completed dump in the early window (R135). -/
structure CompletedDump where
  lot : Nat
  early : Bool
deriving DecidableEq, Repr

/-- The curd line record (R116). -/
structure LineRecord where
  state : LineState
  current : Option Nat
  start : Option Timer
  duration : Option Timer
  orderedAt : Option Nat
  startedAt : Option Nat
  faultCause : Option LineFaultCause
  mouldsLow : Bool
  lotCounter : Nat
  freeSince : Nat
deriving DecidableEq, Repr

/-- A carriage's reach, by vat numbers 1 to 24 (R90). -/
structure Reach where
  low : Nat
  high : Nat
deriving DecidableEq, Repr

/-- The settings store (R162): the values as GET returns them, in the units R162 gives. -/
structure Settings where
  classes : Vector ClassTimes 8
  zoneEnds : Vector Nat 4
  travelLimit : Nat
  drainInterval : Nat
  pathOpenLimit : Nat
  rinseInterval : Nat
  rinseDuration : Nat
  flushCount : Nat
  flushDuration : Nat
  parkDelay : Nat
  litresPerPulse : Nat
  noFlowTime : Nat
  washVolume : Nat
  urgencyMargin : Nat
  cutStartLimit : Nat
  cutSliceLimit : Nat
  strikes : Nat
  reach : Vector Reach 2
  dumpStartLimit : Nat
  dumpDurationLimit : Nat
  volumeTolerance : Nat
  presenceTimeout : Nat
deriving DecidableEq, Repr

/-! ### Messages and links -/

/-- One field of a payload as R161 codes it: `width` bytes, low byte first, preceded by a byte that says whether it is
present when `flagged`; an absent field's own bytes are 0. -/
structure Field where
  width : Nat
  flagged : Bool
  value : Option Nat
deriving DecidableEq, Repr

/-- The transfer a bank fault suspended or dropped, as BANK FAULT gives it (R71). -/
structure LostTransfer where
  vat : Vat
  slot : Option Slot
  kind : TransferKind
  volume : Nat
deriving DecidableEq, Repr

/-- The notices (R169), each with the fields its raising rule gives, in that rule's order. -/
inductive Notice
  | fillStarted (slot : Option Slot) (vat : Vat) (bank : Bank) (resumed : Bool) (volume : Nat)
  | fillComplete (slot : Option Slot) (vat : Vat) (batch : Option Nat) (filled : Nat)
  | fillStalled (slot : Option Slot) (vat : Vat) (bank : Bank) (volume target : Nat)
  | washStalled (slot : Option Slot) (vat : Vat) (bank : Bank) (volume target : Nat)
  | fillSuspended (slot : Option Slot) (vat : Vat) (bank : Bank) (volume target : Nat)
  | washComplete (slot : Option Slot) (vat : Vat)
  | bankFault (bank : Bank) (cause : BankFaultCause) (lost : Option LostTransfer)
  | cutOrder (carriage : Carriage) (tag : Nat) (slot : Option Slot) (vat : Vat) (cutClose : Option Nat) (list : CutList)
      (deadline : Nat)
  | orderWithdrawn (carriage : Carriage) (tag : Option Nat) (vat : Option Vat) (slot : Option Slot) (cause : WithdrawCause)
  | vatOverset (slot : Option Slot) (vat : Vat) (batch : Option Nat) (cutClose : Option Nat)
  | carriageFault (carriage : Carriage) (cause : CarriageFaultCause) (missed : Nat) (vat : Option Vat)
      (slot : Option Slot) (tag : Option Nat)
  | dumpOrder (lot : Nat) (slot : Option Slot) (vat : Vat) (batch : Option Nat) (kind : LotKind) (early : Bool)
      (expected deadline : Nat)
  | dumpWithdrawn (lot : Nat) (vat : Vat) (slot : Option Slot) (cause : DumpWithdrawCause)
  | lineFault (lot : Nat) (vat : Option Vat) (slot : Option Slot) (kind : Option LotKind) (startedAt : Option Nat)
      (cause : LineFaultCause)
  | rinseOverdue (bank : Bank) (state : BankState) (transfer : Option Transfer)
  | shortLot (lot : Nat) (vat : Vat) (slot : Option Slot) (batch : Option Nat) (kind : LotKind) (expected received : Nat)
  | stepPending (slot : Option Slot) (vat : Vat) (advance : StepPending) (deadline : Option Nat)
  | stationPresent (station : Link)
  | stationAbsent (station : Link) (cause : AbsentCause)
deriving DecidableEq, Repr

/-- A message that waits in a transmit queue (R148): a reply with its kind, the request's tag, its result and its data
(R154, R160), or a notice. -/
inductive Message
  | reply (kind tag : Byte) (result : Result) (data : List Field)
  | notice (n : Notice)
deriving DecidableEq, Repr

/-- A request frame as checked and held in a receive buffer (R141, R147). -/
structure Frame where
  kind : Byte
  tag : Byte
  flags : Byte
  payload : List Byte
deriving DecidableEq, Repr

/-- An open frame of the receive assembly (R144): its unescaped bytes, whether an escape waits for the byte after it,
whether any byte has been received since the opening delimiter, whether it is marked bad, and whether a character error has
ended its gap timing (R146). -/
structure OpenFrame where
  bytes : List Byte
  escape : Bool
  received : Bool
  bad : Bool
  gapEnded : Bool
deriving DecidableEq, Repr

/-- The frame now being sent: the message that left the queue, and its flags byte as read in that step (R149). -/
structure SentFrame where
  message : Message
  flags : Byte
deriving DecidableEq, Repr

/-- One link unit (07_station_links.md). The assembly is `none` when closed; presence is `none` when ABSENT, and the
presence timer's count when PRESENT (R151). -/
structure LinkUnit where
  assembly : Option OpenFrame
  buffer : List Frame
  queue : List Message
  sending : Option SentFrame
  presence : Option Nat
  overrun : Bool
  frameError : Bool
  noticeLoss : Bool
  restarted : Bool
  inBreak : Bool
deriving DecidableEq, Repr

/-- The four link units. -/
structure Links where
  fill : LinkUnit
  cut : LinkUnit
  press : LinkUnit
  console : LinkUnit
deriving DecidableEq, Repr

/-- The three freeze marks (R167). -/
structure Freeze where
  banks : Bool
  carriages : Bool
  line : Bool
deriving DecidableEq, Repr

/-- The rate straps as sampled (R140); a high strap is true. -/
structure Straps where
  rate1 : Bool
  rate0 : Bool
deriving DecidableEq, Repr

/-! ### The machine -/

/-- Everything the part holds, the queue of commands that wait, and the free counter, which is the model's own. -/
structure State where
  /-- The make clock, in seconds since the last reset (R173). -/
  clock : Nat
  /-- RESETN is recognised low: the part is held in reset (R172). -/
  inReset : Bool
  /-- The rate straps as sampled at the last release (R140). -/
  straps : Straps
  /-- The level of EDIT as the request handler last read it (R154). -/
  edit : Bool
  /-- The filtered level of each bank's PROVED input (R175). -/
  proved : Vector Bool 4
  /-- The 24 vat records (R1). -/
  vats : Vector VatRecord 24
  /-- The slot map (R5). -/
  slotMap : Vector (Option Vat) 32
  /-- The settings store (R162). -/
  settings : Settings
  /-- The freeze marks (R167). -/
  frozen : Freeze
  /-- RESTART has been accepted and has not yet taken effect (R170). -/
  restartAccepted : Bool
  /-- The four bank controllers (R50, R73). -/
  banks : Vector BankRecord 4
  /-- The URGENT list, head first (R91). -/
  urgent : List CutEntry
  /-- The OPEN list, head first (R91). -/
  openList : List CutEntry
  /-- The two carriage records (R89). -/
  carriages : Vector CarriageRecord 2
  /-- The order tag counter: the next tag in turn (R97). -/
  tagCounter : Nat
  /-- The late-tag set, without repeats (R97). -/
  lateTags : List Nat
  /-- Routine pause (R108). -/
  routinePause : Bool
  /-- The carriage granted last, which R109 needs when both stand ORDERED (log 20). -/
  lastGranted : Option Carriage
  /-- The curd line record (R116). -/
  line : LineRecord
  /-- The LATE list, head first (R117). -/
  lateList : List DumpEntry
  /-- The ROUTINE list, head first (R117). -/
  routine : List DumpEntry
  /-- The lot list, oldest first (R122). -/
  lots : List Lot
  /-- The early window, oldest first (R135). -/
  window : List CompletedDump
  /-- The four link units. -/
  links : Links
  /-- MODEL'S OWN: the counter with which free values are drawn (log 27). -/
  drawn : Nat
  /-- The commands that wait, first in, first out (log 1). -/
  pending : List Instr
deriving DecidableEq, Repr

/-- The conditions in which the machine stops with a fault. There is none: every condition the spec describes, the part's
own faults among them, is a next state. -/
inductive Fault
deriving DecidableEq, Repr

/-- The reasons for which a command has no meaning in the model. -/
inductive Refusal
  /-- Raised by exec's arm of a command that has no meaning yet; none is left. Safe: it stops. -/
  | notModelled (mnemonic : String)
deriving DecidableEq, Repr

/-! ### The state right after a reset -/

/-- A record as a clear leaves it: service and slot as they were, VACANT, marks off, everything else absent (R3). -/
def VatRecord.cleared (r : VatRecord) : VatRecord :=
  { service := r.service, stage := .vacant, slot := r.slot, batch := none, recipe := none, snapshot := none,
    target := none, filled := 0, setTime := none, cutOpen := none, cutClose := none, cutDone := none, healMin := none,
    healMax := none, held := false, stepMode := false, stepPending := .nothing, carriage := none, lot := none,
    early := false, waste := false, declared := false, healMaxFirst := false }

/-- The record of vat `v` after power-on or RESETN (R4). -/
def VatRecord.reset (v : Vat) : VatRecord :=
  { service := .inUse, stage := .vacant, slot := some ⟨v.val, by omega⟩, batch := none, recipe := none, snapshot := none,
    target := none, filled := 0, setTime := none, cutOpen := none, cutClose := none, cutDone := none, healMin := none,
    healMax := none, held := false, stepMode := false, stepPending := .nothing, carriage := none, lot := none,
    early := false, waste := false, declared := false, healMaxFirst := false }

/-- The settings after power-on or RESETN (R162). -/
def Settings.default : Settings :=
  { classes := Vector.replicate 8 ⟨1800, 2400, 1500, 2700⟩, zoneEnds := #v[6, 12, 18, 24], travelLimit := 8,
    drainInterval := 45, pathOpenLimit := 40, rinseInterval := 120, rinseDuration := 180, flushCount := 8,
    flushDuration := 30, parkDelay := 20, litresPerPulse := 5, noFlowTime := 30, washVolume := 400, urgencyMargin := 120,
    cutStartLimit := 90, cutSliceLimit := 900, strikes := 3, reach := #v[⟨1, 14⟩, ⟨11, 24⟩], dumpStartLimit := 60,
    dumpDurationLimit := 1200, volumeTolerance := 3, presenceTimeout := 10 }

/-- A bank in the PROVE phase of START, its travel timer started with the valve travel limit (R50, R73, R74). -/
def BankRecord.reset (travelLimit : Nat) : BankRecord :=
  { state := .start, path := none, current := none, list := [], closeCause := none, closePhase := none,
    travel := some ⟨0, travelLimit⟩, drain := none, pathOpen := none, stoppedPath := none, noFlow := none,
    faultCause := none, startPhase := some .prove, flushesDone := some 0, flush := none, rinse := none, rinseCount := 0,
    rinsePending := false, rinseOverdue := false, park := none, parkDrain := none, parkPulse := none }

/-- A carriage after any reset (R89). -/
def CarriageRecord.reset : CarriageRecord :=
  { state := .free, blocked := false, vat := none, tag := none, orderedAt := none, startedAt := none, faultCause := none,
    freeSince := 0, missed := 0, start := none, slice := none }

/-- The curd line after any reset (R116). -/
def LineRecord.reset : LineRecord :=
  { state := .free, current := none, start := none, duration := none, orderedAt := none, startedAt := none,
    faultCause := none, mouldsLow := false, lotCounter := 1, freeSince := 0 }

/-- A link unit after a reset (R153); whether its line is still in a break is not reset (log 10). -/
def LinkUnit.reset (inBreak : Bool) : LinkUnit :=
  { assembly := none, buffer := [], queue := [], sending := none, presence := none, overrun := false, frameError := false,
    noticeLoss := false, restarted := true, inBreak := inBreak }

/-- The machine right after a power-on reset: every field as the spec gives it for reset (R171), PROVED high so that the
banks stand in the PROVE phase (log 6), straps low (log 7), EDIT off (log 5), no break on any line (log 10). -/
def State.reset : State :=
  { clock := 0, inReset := false, straps := ⟨false, false⟩, edit := false, proved := Vector.replicate 4 true,
    vats := Vector.ofFn VatRecord.reset,
    slotMap := Vector.ofFn fun s => if h : s.val < 24 then some ⟨s.val, h⟩ else none,
    settings := Settings.default, frozen := ⟨false, false, false⟩, restartAccepted := false,
    banks := Vector.replicate 4 (BankRecord.reset Settings.default.travelLimit), urgent := [], openList := [],
    carriages := Vector.replicate 2 CarriageRecord.reset, tagCounter := 1, lateTags := [], routinePause := false,
    lastGranted := none, line := LineRecord.reset, lateList := [], routine := [], lots := [], window := [],
    links := ⟨.reset false, .reset false, .reset false, .reset false⟩, drawn := 0, pending := [] }

end Sys2Proof.Machine
end

