-- ==== Sys2Proof/Machine/Ops.lean ====
section
/-! DEFINITION. The named operations every block uses: reading and writing a record, make-clock sums, timers, the choice of
a list entry, the queuing of notices and replies, and the drawing of a free order. -/

namespace Sys2Proof.Machine

/-! ### Records -/

/-- The record of a vat (R1). -/
def State.vat (s : State) (v : Vat) : VatRecord := s.vats[v]

/-- `s` with the record of a vat replaced. -/
def State.setVat (s : State) (v : Vat) (r : VatRecord) : State := { s with vats := s.vats.set v r }

/-- `s` with the record of a vat changed. -/
def State.modVat (s : State) (v : Vat) (f : VatRecord → VatRecord) : State := s.setVat v (f (s.vat v))

/-- The record of a bank (R50). -/
def State.bank (s : State) (b : Bank) : BankRecord := s.banks[b]

/-- `s` with the record of a bank replaced. -/
def State.setBank (s : State) (b : Bank) (k : BankRecord) : State := { s with banks := s.banks.set b k }

/-- `s` with the record of a bank changed. -/
def State.modBank (s : State) (b : Bank) (f : BankRecord → BankRecord) : State := s.setBank b (f (s.bank b))

/-- The record of a carriage (R89). -/
def State.carriage (s : State) (c : Carriage) : CarriageRecord := s.carriages[c]

/-- `s` with the record of a carriage replaced. -/
def State.setCarriage (s : State) (c : Carriage) (r : CarriageRecord) : State :=
  { s with carriages := s.carriages.set c r }

/-- `s` with the record of a carriage changed. -/
def State.modCarriage (s : State) (c : Carriage) (f : CarriageRecord → CarriageRecord) : State :=
  s.setCarriage c (f (s.carriage c))

/-- One of the four link units. -/
def Links.get (ls : Links) : Link → LinkUnit
  | .fill => ls.fill
  | .cut => ls.cut
  | .press => ls.press
  | .console => ls.console

/-- The link units with one replaced. -/
def Links.put (ls : Links) (l : Link) (u : LinkUnit) : Links :=
  match l with
  | .fill => { ls with fill := u }
  | .cut => { ls with cut := u }
  | .press => { ls with press := u }
  | .console => { ls with console := u }

/-- The link unit of a link. -/
def State.link (s : State) (l : Link) : LinkUnit := s.links.get l

/-- `s` with a link unit replaced. -/
def State.setLink (s : State) (l : Link) (u : LinkUnit) : State := { s with links := s.links.put l u }

/-- `s` with a link unit changed. -/
def State.modLink (s : State) (l : Link) (f : LinkUnit → LinkUnit) : State := s.setLink l (f (s.link l))

/-- `s` with the line record changed. -/
def State.modLine (s : State) (f : LineRecord → LineRecord) : State := { s with line := f s.line }

/-- The vats, banks, carriages and links, each in order. -/
def allVats : List Vat := List.finRange 24
def allBanks : List Bank := [0, 1, 2, 3]
def allCarriages : List Carriage := [0, 1]
def allLinks : List Link := [.fill, .cut, .press, .console]

/-- The record at every bank changed by `f`. -/
def State.mapBanks (s : State) (f : Bank → BankRecord → BankRecord) : State :=
  { s with banks := Vector.ofFn fun b => f b s.banks[b] }

/-! ### Time (00_scope 6.1, R2, R173) -/

/-- The make-clock value `d` seconds after `t`. A sum past the clock's range is a free value (log 8). -/
def after (t d : Nat) : Nat := if t + d < Config.clockRange then t + d else (Config.clockPast t d).toNat

/-- Whether an optional make-clock value is present and the make clock has reached it. -/
def State.reached (s : State) (deadline : Option Nat) : Bool :=
  match deadline with
  | some t => decide (t ≤ s.clock)
  | none => false

/-- A timer as it is started (R173). -/
def Timer.begin (limit : Nat) : Timer := ⟨0, limit⟩

/-- Whether a timer is running and has reached its limit (R173). -/
def due (t : Option Timer) : Bool :=
  match t with
  | some t => decide (t.limit ≤ t.count)
  | none => false

/-- A timer one second later. -/
def Timer.tick (t : Timer) : Timer := { t with count := t.count + 1 }

/-- The seconds a running timer has left (R114, R138). -/
def Timer.left (t : Timer) : Nat := t.limit - t.count

/-! ### Lists (00_scope 6.4) -/

/-- The head-most entry that meets `p`, with the list without it. -/
def pick? {α : Type} (p : α → Bool) : List α → Option (α × List α)
  | [] => none
  | x :: xs =>
    if p x then some (x, xs)
    else match pick? p xs with
      | some (y, ys) => some (y, x :: ys)
      | none => none

/-- The list without its head-most entry that meets `p`. -/
def dropOne {α : Type} (p : α → Bool) (l : List α) : List α :=
  match pick? p l with
  | some (_, rest) => rest
  | none => l

/-- The list with `x` put immediately before the first entry that meets `p`, or at the tail (R29). -/
def putBefore {α : Type} (p : α → Bool) (x : α) : List α → List α
  | [] => [x]
  | y :: ys => if p y then x :: y :: ys else y :: putBefore p x ys

/-- The list in the order that the number `k` picks: the order of `k % n!` in a fixed numbering of the orders. -/
def reorder {α : Type} : Nat → Nat → List α → List α
  | 0, _, l => l
  | fuel + 1, k, l =>
    match l[k % l.length]? with
    | some x => x :: reorder fuel (k / l.length) (l.eraseIdx (k % l.length))
    | none => l

/-- The list in a free order (log 17): drawn only when more than one order is possible. -/
def State.inFreeOrder {α : Type} (s : State) (l : List α) : List α :=
  if l.length ≤ 1 then l else reorder l.length (Config.order s.drawn) l

/-- `s` after a free order of `l` has been drawn. -/
def State.afterFreeOrder {α : Type} (s : State) (l : List α) : State :=
  if l.length ≤ 1 then s else { s with drawn := s.drawn + 1 }

/-- `f` applied for each member of `l` in a free order (log 17). -/
def State.forEachFreely {α : Type} (s : State) (l : List α) (f : α → State → State) : State :=
  (s.inFreeOrder l).foldl (fun t x => f x t) (s.afterFreeOrder l)

/-! ### Messages (R148) -/

/-- Whether a link's transmit queue has a free entry. -/
def LinkUnit.hasRoom (u : LinkUnit) : Bool := decide (u.queue.length < Config.transmitRoom)

/-- A link unit with a notice raised on it: it joins the tail if there is room, else it is dropped and the notice-loss mark
is set (R148). -/
def LinkUnit.raise (n : Notice) (u : LinkUnit) : LinkUnit :=
  if u.hasRoom then { u with queue := u.queue ++ [.notice n] } else { u with noticeLoss := true }

/-- A notice raised on a link (R148). The order notices go through here too: their grants are made only with room. -/
def State.raise (s : State) (l : Link) (n : Notice) : State := s.modLink l (LinkUnit.raise n)

/-- A notice raised on two links is two messages, one queued on each (R169). -/
def State.raiseBoth (s : State) (l₁ l₂ : Link) (n : Notice) : State := (s.raise l₁ n).raise l₂ n

/-! ### Zones (R48) -/

/-- The end of a bank's zone. -/
def Settings.zoneEnd (t : Settings) (b : Bank) : Nat := t.zoneEnds[b]

/-- The bank whose zone holds the vat: the first bank whose zone end is not below it (R48, log 24). -/
def Settings.bankOf (t : Settings) (v : Vat) : Bank :=
  if v.val + 1 ≤ t.zoneEnd 0 then 0
  else if v.val + 1 ≤ t.zoneEnd 1 then 1
  else if v.val + 1 ≤ t.zoneEnd 2 then 2
  else 3

/-- The bank whose zone holds the vat, from the table as it stands. -/
def State.bankOf (s : State) (v : Vat) : Bank := s.settings.bankOf v

/-! ### Marks of the vat records -/

/-- Whether a vat is held. -/
def State.isHeld (s : State) (v : Vat) : Bool := (s.vat v).held

/-- Whether a station is PRESENT (R151). -/
def State.present (s : State) (l : Link) : Bool := (s.link l).presence.isSome

end Sys2Proof.Machine
end

