-- ==== Sys2Proof/Machine/Coding.lean ====
section
/-! DEFINITION. How fields, results, notices and replies become payload bytes (R160, R161, R169), and how a frame becomes
the bytes on a line (R141 to R143). Readings of R161 that its text leaves open are log 12 to 16. -/

namespace Sys2Proof.Machine

/-! ### Codes of names: the place in the list where the manual gives the field's values, counting from 1 (R161) -/

/-- Stages take the codes of R159. -/
def Stage.code : Stage → Nat
  | .vacant => 0
  | .fillQueued => 1
  | .filling => 2
  | .charged => 3
  | .setting => 4
  | .cutWindow => 5
  | .cutting => 6
  | .working => 7
  | .dumpQueued => 8
  | .dumping => 9
  | .washing => 10
  | .overset => 11

/-- The stage a code of R159 names. -/
def Stage.ofCode : Nat → Option Stage
  | 0 => some .vacant
  | 1 => some .fillQueued
  | 2 => some .filling
  | 3 => some .charged
  | 4 => some .setting
  | 5 => some .cutWindow
  | 6 => some .cutting
  | 7 => some .working
  | 8 => some .dumpQueued
  | 9 => some .dumping
  | 10 => some .washing
  | 11 => some .overset
  | _ => none

/-- Service: IN, OUT (R1). -/
def Service.code : Service → Nat
  | .inUse => 1
  | .outOfUse => 2

/-- Step pending: none is coded 0, CUT-OPEN and HEAL-MIN in their order (R1, R47, R161; log 12). -/
def StepPending.code : StepPending → Nat
  | .nothing => 0
  | .cutOpen => 1
  | .healMin => 2

/-- Transfer kind: FILL, WASH (R53). -/
def TransferKind.code : TransferKind → Nat
  | .fill => 1
  | .wash => 2

/-- Transfer phase: OPENING-PATH, RUNNING, STALLED (R53). -/
def Phase.code : Phase → Nat
  | .openingPath => 1
  | .running => 2
  | .stalled => 3

/-- Bank state, in the order of R50. -/
def BankState.code : BankState → Nat
  | .start => 1
  | .priming => 2
  | .ready => 3
  | .opening => 4
  | .opened => 5
  | .closing => 6
  | .rinsing => 7
  | .parked => 8
  | .faulted => 9

/-- Close cause: MISS, LIMIT, RINSE (R50). -/
def CloseCause.code : CloseCause → Nat
  | .miss => 1
  | .limit => 2
  | .rinse => 3

/-- Close phase: TRAVEL, DRAIN (R50). -/
def ClosePhase.code : ClosePhase → Nat
  | .travel => 1
  | .drain => 2

/-- Bank fault cause: PRIME, VALVE, STRAY (R50). -/
def BankFaultCause.code : BankFaultCause → Nat
  | .prime => 1
  | .valve => 2
  | .stray => 3

/-- Start phase: PROVE, FLUSH (R73). -/
def StartPhase.code : StartPhase → Nat
  | .prove => 1
  | .flush => 2

/-- Carriage state, in the order of R89. -/
def CarriageState.code : CarriageState → Nat
  | .free => 1
  | .ordered => 2
  | .cutting => 3
  | .faulted => 4

/-- Carriage fault cause: STRIKES, SLICE (R89). -/
def CarriageFaultCause.code : CarriageFaultCause → Nat
  | .strikes => 1
  | .slice => 2

/-- The list a CUT ORDER was granted from: URGENT, OPEN (R96). -/
def CutList.code : CutList → Nat
  | .urgent => 1
  | .openList => 2

/-- The cause of a withdrawal, in the order of R100. -/
def WithdrawCause.code : WithdrawCause → Nat
  | .cutClose => 1
  | .startLimit => 2
  | .refused => 3
  | .blocked => 4
  | .absent => 5

/-- Line state, in the order of R116. -/
def LineState.code : LineState → Nat
  | .free => 1
  | .ordered => 2
  | .running => 3
  | .faulted => 4

/-- Line fault cause: DURATION (R116). -/
def LineFaultCause.code : LineFaultCause → Nat
  | .duration => 1

/-- Dump entry kind: NORMAL, WASTE (R117). -/
def EntryKind.code : EntryKind → Nat
  | .normal => 1
  | .waste => 2

/-- Lot kind: NORMAL, LATE, WASTE (R122). -/
def LotKind.code : LotKind → Nat
  | .normal => 1
  | .late => 2
  | .waste => 3

/-- Lot state: ORDERED, RUNNING, PRESSING (R122). -/
def LotState.code : LotState → Nat
  | .ordered => 1
  | .running => 2
  | .pressing => 3

/-- The cause of a withdrawn dump order, in the order of R125. -/
def DumpWithdrawCause.code : DumpWithdrawCause → Nat
  | .startLimit => 1
  | .refused => 2

/-- The cause of an absence: TIMEOUT, BREAK (R151). -/
def AbsentCause.code : AbsentCause → Nat
  | .timeout => 1
  | .lineBreak => 2

/-- Stations: 1 Fill, 2 Cut, 3 Press (R169). The Console station is named in no notice. -/
def stationCode : Link → Nat
  | .fill => 1
  | .cut => 2
  | .press => 3
  | .console => 4

/-- Results (R160). -/
def Result.code : Result → Nat
  | .done => 0
  | .doneLate => 1
  | .busy => 2
  | .stage => 3
  | .unmapped => 4
  | .service => 5
  | .conflict => 6
  | .held => 7
  | .late => 8
  | .tag => 9
  | .allowance => 10
  | .faulted => 11
  | .range => 12
  | .role => 13
  | .permit => 14
  | .length => 15
  | .unknown => 16

/-! ### Fields (R161) -/

namespace Field

/-- A field that is always present, of one, two or four bytes. -/
def one (n : Nat) : Field := ⟨1, false, some n⟩
def two (n : Nat) : Field := ⟨2, false, some n⟩
def time (n : Nat) : Field := ⟨4, false, some n⟩

/-- A yes or no, on or off mark: 0 for no or off, 1 for yes or on. -/
def mark (b : Bool) : Field := one b.toNat

/-- A field whose coding has no value 0, coded 0 when absent. -/
def oneOrZero (o : Option Nat) : Field := ⟨1, false, o⟩
def twoOrZero (o : Option Nat) : Field := ⟨2, false, o⟩

/-- A field that may be absent and whose coding has a value 0: one byte before it says whether it is present. -/
def oneIf (o : Option Nat) : Field := ⟨1, true, o⟩
def twoIf (o : Option Nat) : Field := ⟨2, true, o⟩
def timeIf (o : Option Nat) : Field := ⟨4, true, o⟩
def markIf (o : Option Bool) : Field := oneIf (o.map Bool.toNat)

/-- A make-clock value that its message always carries (log 14). -/
def timeOf (o : Option Nat) : Field := ⟨4, false, o⟩
def twoOf (o : Option Nat) : Field := ⟨2, false, o⟩

/-- Numbers of the objects of 00_scope 6.3. -/
def vat (v : Vat) : Field := one (v.val + 1)
def bank (b : Bank) : Field := one (b.val + 1)
def carriage (c : Carriage) : Field := one (c.val + 1)
def slot (s : Option Slot) : Field := oneOrZero (s.map fun n => n.val + 1)
def vatIf (v : Option Vat) : Field := oneOrZero (v.map fun n => n.val + 1)
def carriageIf (c : Option Carriage) : Field := oneOrZero (c.map fun n => n.val + 1)

/-- The bytes of a field (R161). -/
def bytes (f : Field) : List Byte :=
  (if f.flagged then [Byte.ofNat f.value.isSome.toNat] else []) ++ lowFirst f.width (f.value.getD 0)

/-- How many bytes a field takes. -/
def size (f : Field) : Nat := f.flagged.toNat + f.width

end Field

/-! ### Notices (R169) -/

/-- The kind of a notice. -/
def Notice.kind : Notice → Byte
  | .fillStarted .. => 0xE0
  | .fillComplete .. => 0xE1
  | .fillStalled .. => 0xE2
  | .washStalled .. => 0xE3
  | .fillSuspended .. => 0xE4
  | .washComplete .. => 0xE5
  | .bankFault .. => 0xE6
  | .cutOrder .. => 0xE7
  | .orderWithdrawn .. => 0xE8
  | .vatOverset .. => 0xE9
  | .carriageFault .. => 0xEA
  | .dumpOrder .. => 0xEB
  | .dumpWithdrawn .. => 0xEC
  | .lineFault .. => 0xED
  | .rinseOverdue .. => 0xEE
  | .shortLot .. => 0xEF
  | .stepPending .. => 0xF0
  | .stationPresent .. => 0xF1
  | .stationAbsent .. => 0xF2

/-- The fields of a notice, in the order of the rule that raises it (R47, R71, R78, R96, R100, R111, R120, R125, R127,
R129, R151). -/
def Notice.fields : Notice → List Field
  | .fillStarted slot vat bank resumed volume =>
    [.slot slot, .vat vat, .bank bank, .mark resumed, .two volume]
  | .fillComplete slot vat batch filled => [.slot slot, .vat vat, .twoOf batch, .two filled]
  | .fillStalled slot vat bank volume target => [.slot slot, .vat vat, .bank bank, .two volume, .two target]
  | .washStalled slot vat bank volume target => [.slot slot, .vat vat, .bank bank, .two volume, .two target]
  | .fillSuspended slot vat bank volume target => [.slot slot, .vat vat, .bank bank, .two volume, .two target]
  | .washComplete slot vat => [.slot slot, .vat vat]
  | .bankFault bank cause lost =>
    [.bank bank, .one cause.code, .vatIf (lost.map LostTransfer.vat), .slot (lost.bind LostTransfer.slot),
      .oneOrZero (lost.map fun t => t.kind.code), .twoIf (lost.map LostTransfer.volume)]
  | .cutOrder carriage tag slot vat cutClose list deadline =>
    [.carriage carriage, .one tag, .slot slot, .vat vat, .timeIf cutClose, .one list.code, .time deadline]
  | .orderWithdrawn carriage tag vat slot cause =>
    [.carriage carriage, .oneOrZero tag, .vatIf vat, .slot slot, .one cause.code]
  | .vatOverset slot vat batch cutClose => [.slot slot, .vat vat, .twoOf batch, .timeOf cutClose]
  | .carriageFault carriage cause missed vat slot tag =>
    [.carriage carriage, .one cause.code, .one missed, .vatIf vat, .slot slot, .oneOrZero tag]
  | .dumpOrder lot slot vat batch kind early expected deadline =>
    [.two lot, .slot slot, .vat vat, .twoOf batch, .one kind.code, .mark early, .two expected, .time deadline]
  | .dumpWithdrawn lot vat slot cause => [.two lot, .vat vat, .slot slot, .one cause.code]
  | .lineFault lot vat slot kind startedAt cause =>
    [.two lot, .vatIf vat, .slot slot, .oneOrZero (kind.map LotKind.code), .timeOf startedAt, .one cause.code]
  | .rinseOverdue bank state transfer =>
    [.bank bank, .one state.code, .vatIf (transfer.map Transfer.vat), .oneOrZero (transfer.map fun t => t.kind.code)]
  | .shortLot lot vat slot batch kind expected received =>
    [.two lot, .vat vat, .slot slot, .twoOf batch, .one kind.code, .two expected, .two received]
  | .stepPending slot vat advance deadline => [.slot slot, .vat vat, .one advance.code, .timeOf deadline]
  | .stationPresent station => [.one (stationCode station)]
  | .stationAbsent station cause => [.one (stationCode station), .one cause.code]

/-! ### Messages and frames (R141, R154, R169) -/

/-- The kind byte of a message. -/
def Message.kind : Message → Byte
  | .reply kind _ _ _ => kind
  | .notice n => n.kind

/-- The tag byte of a message: a reply's is the request's, a notice's is 0 (R141). -/
def Message.tag : Message → Byte
  | .reply _ tag _ _ => tag
  | .notice _ => 0

/-- The payload of a message: a reply's opens with the result code (R154, R160). -/
def Message.payload : Message → List Byte
  | .reply _ _ result data => Byte.ofNat result.code :: data.flatMap Field.bytes
  | .notice n => n.fields.flatMap Field.bytes

/-- The delimiter and the escape (R141, R142). -/
def delimiter : Byte := 0x5A
def escapeByte : Byte := 0x5B

/-- One bit of the check register's work: shift left, and take the generator away when the top bit falls out (R143). -/
def crcBit (c : Crc) : Crc := if c.msb then (c <<< 1) ^^^ 0x1021 else c <<< 1

/-- The check register after a byte has entered, most significant bit first (R143). -/
def crcByte (c : Crc) (b : Byte) : Crc :=
  crcBit (crcBit (crcBit (crcBit (crcBit (crcBit (crcBit (crcBit (c ^^^ (b.setWidth 16 <<< 8)))))))))

/-- The check sequence of a frame's kind, tag, flags and payload (R143). -/
def crcOf (bytes : List Byte) : Crc := bytes.foldl crcByte 0xFFFF

/-- A byte as it goes on the line between the delimiters (R142). -/
def escaped (b : Byte) : List Byte :=
  if b = delimiter ∨ b = escapeByte then [escapeByte, b ^^^ 0x20] else [b]

/-- The bytes of a frame between its delimiters, before escaping (R141). -/
def frameBytes (kind tag flags : Byte) (payload : List Byte) : List Byte :=
  kind :: tag :: flags :: payload ++ lowFirst 2 (crcOf (kind :: tag :: flags :: payload)).toNat

/-- A frame as it goes on the line, delimiters included (R141, R142). -/
def lineBytes (kind tag flags : Byte) (payload : List Byte) : List Byte :=
  delimiter :: (frameBytes kind tag flags payload).flatMap escaped ++ [delimiter]

/-- The bytes on the line of the frame now being sent. -/
def SentFrame.line (f : SentFrame) : List Byte :=
  lineBytes f.message.kind f.message.tag f.flags f.message.payload

/-! ### Characters and the levels of a line (R140; chapter 10: a line is high at mark and low at space) -/

/-- The bit rate of all four links, in bits a second, by the straps as sampled (R140). -/
def Straps.bitRate (p : Straps) : Nat :=
  match p.rate1, p.rate0 with
  | false, false => 9600
  | false, true => 19200
  | true, false => 38400
  | true, true => 115200

/-- The levels of a line in the ten bit times of a character: the start bit at space, the eight data bits with the least
significant first, and the stop bit at mark; there is no parity bit (R140). -/
def characterLevels (b : Byte) : List Bool := false :: (List.range 8).map b.getLsbD ++ [true]

/-- The character that the levels of ten bit times make, when they begin with a start bit: a character error when the stop
bit is found at space (R140). A space that goes on to a break is the command BREAK (R150). -/
def characterOf : List Bool → Option Character
  | [false, b0, b1, b2, b3, b4, b5, b6, b7, stop] =>
    some (if stop then .byte (BitVec.ofBoolListLE [b0, b1, b2, b3, b4, b5, b6, b7]) else .error)
  | _ => none

/-- The levels of the transmit line over the bit times of the frame being sent, its characters back to back. Before, between
and after frames, and in reset, there are none: the line rests at mark (R140, R153, R172). -/
def State.transmitLevels (s : State) (l : Link) : List Bool :=
  match (s.link l).sending with
  | some f => f.line.flatMap characterLevels
  | none => []

/-- The bit rate of the links, from the straps as sampled at the last release (R140). -/
def State.bitRate (s : State) : Nat := s.straps.bitRate

end Sys2Proof.Machine
end

