-- ==== Sys2Proof/Machine/Operands.lean ====
section
/-! DEFINITION. What a request frame asks for (R156 to R159): its row, its payload size, the links it is allowed on, whether
it is a configuration request, and its fields read from the payload bytes and checked against their ranges. -/

namespace Sys2Proof.Machine

/-! ### Kinds, sizes, links (R156 to R159) -/

/-- The row of a frame (log 4). A QUERY whose first payload byte is no subject of R165 counts as QUERY_VAT, a CLEAR whose
first payload byte is no resource as CLEAR_BANK: the checks of R155 answer such a frame the same in every row. MAP SLOT
with two payload bytes and vat 0 is UNMAP_SLOT (R8, R159). -/
def Frame.request (f : Frame) : Request :=
  match f.kind.toNat with
  | 0x01 => .status
  | 0x10 => .fillOrder
  | 0x11 => .fillCancel
  | 0x12 => .fillResume
  | 0x13 => .setSlot
  | 0x14 => .vatQuery
  | 0x20 => .cutStarted
  | 0x21 => .cutDone
  | 0x22 => .cutRefused
  | 0x23 => .carriageBlock
  | 0x24 => .carriageUnblock
  | 0x25 => .routinePause
  | 0x26 => .routineResume
  | 0x30 => .dumpStarted
  | 0x31 => .dumpDone
  | 0x32 => .dumpRefused
  | 0x33 => .lotClosed
  | 0x34 => .mouldsLow
  | 0x35 => .mouldsReady
  | 0x40 =>
    match f.payload with
    | 2 :: _ => .queryBank
    | 3 :: _ => .queryCarriage
    | 4 :: _ => .queryLine
    | 5 :: _ => .queryLotList
    | 6 :: _ => .queryCutLists
    | 7 :: _ => .queryDumpLists
    | 8 :: _ => .queryEarlyWindow
    | _ => .queryVat
  | 0x41 => .get
  | 0x42 => .hold
  | 0x43 => .release
  | 0x44 => .stepMode
  | 0x45 => .step
  | 0x46 => .dumpEarly
  | 0x47 => .releaseOverset
  | 0x48 => .discard
  | 0x49 => .abandonLot
  | 0x4A => .freeze
  | 0x4B =>
    match f.payload with
    | 2 :: _ => .clearCarriage
    | 3 :: _ => .clearLine
    | _ => .clearBank
  | 0x50 => .set
  | 0x51 =>
    match f.payload with
    | [_, 0] => .unmapSlot
    | _ => .mapSlot
  | 0x52 => .service
  | 0x53 => .declare
  | 0x54 => .restart
  | _ => .unknownKindRequest

/-- The payload size of a request kind, in bytes (R156 to R159). -/
def payloadSize : Request → Nat
  | .unknownKindRequest => 0
  | .status => 0
  | .fillOrder => 6
  | .fillCancel => 1
  | .fillResume => 1
  | .setSlot => 1
  | .vatQuery => 2
  | .cutStarted => 1
  | .cutDone => 1
  | .cutRefused => 1
  | .carriageBlock => 1
  | .carriageUnblock => 1
  | .routinePause => 0
  | .routineResume => 0
  | .dumpStarted => 2
  | .dumpDone => 4
  | .dumpRefused => 2
  | .lotClosed => 2
  | .mouldsLow => 0
  | .mouldsReady => 0
  | .queryVat => 3
  | .queryBank => 3
  | .queryCarriage => 3
  | .queryCutLists => 3
  | .queryLine => 3
  | .queryLotList => 3
  | .queryDumpLists => 3
  | .queryEarlyWindow => 3
  | .get => 1
  | .hold => 1
  | .release => 1
  | .stepMode => 2
  | .step => 1
  | .dumpEarly => 1
  | .releaseOverset => 1
  | .discard => 1
  | .abandonLot => 2
  | .freeze => 2
  | .clearBank => 2
  | .clearCarriage => 2
  | .clearLine => 2
  | .set => 3
  | .mapSlot => 2
  | .unmapSlot => 2
  | .service => 2
  | .declare => 7
  | .restart => 0

/-- The link whose request set holds a request; none for STATUS, which is in every link's (R155, R156 to R159). -/
def requestLink : Request → Option Link
  | .unknownKindRequest => none
  | .status => none
  | .fillOrder => some .fill
  | .fillCancel => some .fill
  | .fillResume => some .fill
  | .setSlot => some .fill
  | .vatQuery => some .fill
  | .cutStarted => some .cut
  | .cutDone => some .cut
  | .cutRefused => some .cut
  | .carriageBlock => some .cut
  | .carriageUnblock => some .cut
  | .routinePause => some .cut
  | .routineResume => some .cut
  | .dumpStarted => some .press
  | .dumpDone => some .press
  | .dumpRefused => some .press
  | .lotClosed => some .press
  | .mouldsLow => some .press
  | .mouldsReady => some .press
  | .queryVat => some .console
  | .queryBank => some .console
  | .queryCarriage => some .console
  | .queryCutLists => some .console
  | .queryLine => some .console
  | .queryLotList => some .console
  | .queryDumpLists => some .console
  | .queryEarlyWindow => some .console
  | .get => some .console
  | .hold => some .console
  | .release => some .console
  | .stepMode => some .console
  | .step => some .console
  | .dumpEarly => some .console
  | .releaseOverset => some .console
  | .discard => some .console
  | .abandonLot => some .console
  | .freeze => some .console
  | .clearBank => some .console
  | .clearCarriage => some .console
  | .clearLine => some .console
  | .set => some .console
  | .mapSlot => some .console
  | .unmapSlot => some .console
  | .service => some .console
  | .declare => some .console
  | .restart => some .console

/-- Whether a request is in the request set of a link. -/
def allowedOn (r : Request) (l : Link) : Bool :=
  match requestLink r with
  | some own => decide (own = l)
  | none => true

/-- Whether a request is a configuration request, which needs the EDIT permit (R159). -/
def isConfiguration (r : Request) : Bool :=
  decide (r ∈ [Request.set, .mapSlot, .unmapSlot, .service, .declare, .restart])

/-! ### Fields as received -/

/-- A one-byte field of the payload. -/
def Frame.byteAt (f : Frame) (i : Nat) : Nat := (f.payload.getD i 0).toNat

/-- A two-byte field of the payload, low byte first (R141). -/
def Frame.pairAt (f : Frame) (i : Nat) : Nat := ofLowFirst [f.payload.getD i 0, f.payload.getD (i + 1) 0]

/-! ### Range checks (R155, check 5) -/

/-- The member of a range `1 .. n` that a number names. -/
def numbered (n : Nat) (x : Nat) : Option (Fin n) := if h : 1 ≤ x ∧ x ≤ n then some ⟨x - 1, by omega⟩ else none

/-- Slot 1-32, vat 1-24, bank 1-4, carriage 1-2 (00_scope 6.3). -/
def slotOf? (x : Nat) : Option Slot := numbered 32 x
def vatOf? (x : Nat) : Option Vat := numbered 24 x
def bankOf? (x : Nat) : Option Bank := numbered 4 x
def carriageOf? (x : Nat) : Option Carriage := numbered 2 x

/-- Class 0-7. -/
def classOf? (x : Nat) : Option RecipeClass := if h : x < 8 then some ⟨x, h⟩ else none

/-- Whether a value lies in a range, both ends included. -/
def within (low high x : Nat) : Bool := decide (low ≤ x ∧ x ≤ high)

/-- A number in a range, both ends included. -/
def rangeOf? (low high x : Nat) : Option Nat := if low ≤ x ∧ x ≤ high then some x else none

/-- A mode or state field coded 0 or 1. -/
def bitOf? : Nat → Option Bool
  | 0 => some false
  | 1 => some true
  | _ => none

end Sys2Proof.Machine
end

