-- ==== Sys2Proof/Machine/CutArbiter.lean ====
section
/-! DEFINITION. The carriage arbiter's operations: the cut lists (R29, R32, R91), the order tags (R97), grants (R92 to R96),
withdrawals (R100), and a vat's becoming OVERSET (R33). -/

namespace Sys2Proof.Machine

/-! ### The cut lists -/

/-- A cut entry for a vat, made now (R29): the vat, its present slot and cut-close, and the make clock as its join time. -/
def State.cutEntry (s : State) (v : Vat) : CutEntry :=
  { vat := v, slot := (s.vat v).slot, cutClose := (s.vat v).cutClose, joined := s.clock }

/-- Whether cut-close is within the urgency margin of the make clock (R29, R32): cut-close less the clock is at most the
margin. -/
def State.urgentAt (s : State) (cutClose : Nat) : Bool := decide (cutClose ≤ s.clock + s.settings.urgencyMargin)

/-- The cut list a vat's entry belongs in (R29). -/
def State.cutListFor (s : State) (v : Vat) : CutList :=
  match (s.vat v).cutClose with
  | none => .urgent
  | some t => if s.urgentAt t then .urgent else .openList

/-- Whether an entry's vat has a later cut-open than vat `v` (R29). -/
def State.opensLater (s : State) (v : Vat) (e : CutEntry) : Bool :=
  match (s.vat v).cutOpen, (s.vat e.vat).cutOpen with
  | some mine, some its => decide (mine < its)
  | _, _ => false

/-- A vat's entry joins its list by cut-open, STEP or RELEASE OVERSET: URGENT at the tail, OPEN in its place by cut-open
(R29). -/
def State.joinCut (s : State) (v : Vat) : State :=
  match s.cutListFor v with
  | .urgent => { s with urgent := s.urgent ++ [s.cutEntry v] }
  | .openList => { s with openList := putBefore (s.opensLater v) (s.cutEntry v) s.openList }

/-- A vat's entry returns from a withdrawn order to the head of the list R29 gives now (R34). -/
def State.returnCut (s : State) (v : Vat) : State :=
  match s.cutListFor v with
  | .urgent => { s with urgent := s.cutEntry v :: s.urgent }
  | .openList => { s with openList := s.cutEntry v :: s.openList }

/-- A vat's entry removed from the cut lists (R33, R46). -/
def State.leaveCut (s : State) (v : Vat) : State :=
  { s with urgent := dropOne (fun e => decide (e.vat = v)) s.urgent,
           openList := dropOne (fun e => decide (e.vat = v)) s.openList }

/-- The vat enters the cut window: it becomes CUT-WINDOW and its entry joins (R30, R31, R37). -/
def State.enterCutWindow (s : State) (v : Vat) : State :=
  (s.modVat v fun r => { r with stage := .cutWindow, stepPending := .nothing }).joinCut v

/-- Whether an OPEN entry stands at or past its urgency moment (R32). -/
def State.urgencyReached (s : State) (e : CutEntry) : Bool :=
  match e.cutClose with
  | some t => s.urgentAt t
  | none => false

/-- The entry of a vat moved from OPEN to the URGENT tail, keeping its fields (R32); none when its urgency moment has not
been reached or it is not in OPEN. -/
def State.moveUrgent (s : State) (v : Vat) : Option State :=
  match pick? (fun e => decide (e.vat = v) && s.urgencyReached e) s.openList with
  | some (e, rest) => some { s with openList := rest, urgent := s.urgent ++ [e] }
  | none => none

/-- Every OPEN entry at or past its urgency moment moved to the URGENT tail, in the order they held in OPEN (R32). -/
def State.moveAllUrgent (s : State) : State :=
  { s with openList := s.openList.filter (fun e => !s.urgencyReached e),
           urgent := s.urgent ++ s.openList.filter s.urgencyReached }

/-! ### Order tags (R97) -/

/-- The tag after a tag: 1 to 255 and then 1 again; 0 is not issued. -/
def nextTag (t : Nat) : Nat := if t < 255 then t + 1 else 1

/-- The carriage whose record holds a tag: the tag stands (R98). -/
def State.standing? (s : State) (t : Nat) : Option Carriage :=
  allCarriages.find? fun c => decide ((s.carriage c).tag = some t)

/-- The first tag, from `t` on in turn, that no carriage record holds; two records can pass over two tags. -/
def State.freeTag (s : State) : Nat → Nat → Nat
  | 0, t => t
  | fuel + 1, t => if (s.standing? t).isSome then s.freeTag fuel (nextTag t) else t

/-- The tag the counter will issue. -/
def State.tagToIssue (s : State) : Nat := s.freeTag 2 s.tagCounter

/-- A tag joins the late-tag set, which holds it at most once. -/
def joinLateTags (tags : List Nat) (t : Option Nat) : List Nat :=
  match t with
  | some t => if t ∈ tags then tags else tags ++ [t]
  | none => tags

/-! ### Grants (R92 to R96) -/

/-- Whether an entry is eligible for a carriage (R92). -/
def State.cutEligible (s : State) (e : CutEntry) (c : Carriage) : Bool :=
  let k := s.carriage c
  let reach := s.settings.reach[c]
  decide (k.state = .free) && !k.blocked && within reach.low reach.high (e.vat.val + 1) && !s.isHeld e.vat

/-- The carriage an entry is granted to: the one it is eligible for; of two, the one free for longer, and carriage 1 when
both have been free since the same time (R95). -/
def State.carriageFor (s : State) (e : CutEntry) : Option Carriage :=
  match s.cutEligible e 0, s.cutEligible e 1 with
  | true, true => if (s.carriage 1).freeSince < (s.carriage 0).freeSince then some 1 else some 0
  | true, false => some 0
  | false, true => some 1
  | false, false => none

/-- An entry chosen for a grant: the list it stands in, the entry, and that list without it. -/
structure CutChoice where
  list : CutList
  entry : CutEntry
  rest : List CutEntry

/-- The entry to grant: the head-most eligible URGENT entry, else, while routine pause is off, the head-most eligible OPEN
entry (R94). -/
def State.chooseCut (s : State) : Option CutChoice :=
  let eligible := fun e => (s.carriageFor e).isSome
  match pick? eligible s.urgent with
  | some (e, rest) => some ⟨.urgent, e, rest⟩
  | none =>
    if s.routinePause then none
    else match pick? eligible s.openList with
      | some (e, rest) => some ⟨.openList, e, rest⟩
      | none => none

/-- The list an entry was chosen from, without it. -/
def State.withoutChosen (s : State) (x : CutChoice) : State :=
  match x.list with
  | .urgent => { s with urgent := x.rest }
  | .openList => { s with openList := x.rest }

/-- The CUT ORDER of a grant made now (R96). -/
def State.cutOrderFor (s : State) (x : CutChoice) (c : Carriage) : Notice :=
  .cutOrder c s.tagToIssue x.entry.slot x.entry.vat x.entry.cutClose x.list (after s.clock s.settings.cutStartLimit)

/-- A carriage granted to the chosen entry, in one step (R34, R96, R97). -/
def State.applyCutGrant (s : State) (x : CutChoice) (c : Carriage) : State :=
  let tag := s.tagToIssue
  let granted : CarriageRecord → CarriageRecord := fun k =>
    { k with state := .ordered, vat := some x.entry.vat, tag := some tag, orderedAt := some s.clock, startedAt := none,
             start := some (.begin s.settings.cutStartLimit) }
  let t := { s.withoutChosen x with
    tagCounter := nextTag tag, lateTags := s.lateTags.filter (fun n => decide (n ≠ tag)), lastGranted := some c }
  (((t.modCarriage c granted).modVat x.entry.vat fun r => { r with carriage := some c }).raise .cut (s.cutOrderFor x c))

/-- One look at the grant conditions: the grant they allow, if any (R94, R95). -/
def State.grantCut (s : State) : Option State :=
  if s.frozen.carriages || !s.present .cut || !(s.link .cut).hasRoom then none
  else match s.chooseCut with
    | some x => match s.carriageFor x.entry with
      | some c => some (s.applyCutGrant x c)
      | none => none
    | none => none

/-- The arbiter looks at its grant conditions, and after a grant looks again at once (R93). A grant leaves one carriage
fewer FREE, so two grants are the most. -/
def State.cutLook (s : State) : State :=
  match s.grantCut with
  | some t => t.grantCut.getD t
  | none => s

/-! ### Withdrawals and OVERSET (R33, R34, R100) -/

/-- A vat becomes OVERSET (R33). -/
def State.becomeOverset (s : State) (v : Vat) : State :=
  s.modVat v fun r => { r with stage := .overset, stepPending := .nothing }

/-- The VAT OVERSET notice on the Cut link and on the Console link (R33, R47). -/
def State.raiseOverset (s : State) (v : Vat) : State :=
  s.raiseBoth .cut .console (.vatOverset (s.vat v).slot v (s.vat v).batch (s.vat v).cutClose)

/-- The carriage record after its order is withdrawn (R100): FREE since now, or FAULTED by its strikes (R101). -/
def CarriageRecord.withdrawn (k : CarriageRecord) (clock : Nat) (faulted : Bool) : CarriageRecord :=
  let k := { k with vat := none, tag := none, orderedAt := none, start := none }
  if faulted then { k with state := .faulted, faultCause := some .strikes } else { k with state := .free, freeSince := clock }

/-- The order of carriage `c` for vat `v` withdrawn (R100): the carriage record, the vat record and its entry or its
becoming OVERSET, the late-tag set, and ORDER WITHDRAWN. The look that follows is the caller's. -/
def State.withdrawCut (s : State) (c : Carriage) (v : Vat) (cause : WithdrawCause) (faulted : Bool) : State :=
  let tag := (s.carriage c).tag
  let t := (s.modCarriage c fun k => k.withdrawn s.clock faulted).modVat v fun r => { r with carriage := none }
  let t := if cause = .cutClose then { t.becomeOverset v with lateTags := joinLateTags t.lateTags tag } else t.returnCut v
  t.raise .cut (.orderWithdrawn c tag (some v) (s.vat v).slot cause)

/-- The order of a carriage withdrawn by a cause that is not the vat's cut-close, if it stands ORDERED for a vat. -/
def State.withdrawOrder (s : State) (c : Carriage) (cause : WithdrawCause) : State :=
  match (s.carriage c).state, (s.carriage c).vat with
  | .ordered, some v => s.withdrawCut c v cause false
  | _, _ => s

/-- CARRIAGE FAULT on the Cut link and on the Console link (R111). -/
def State.raiseCarriageFault (s : State) (c : Carriage) (cause : CarriageFaultCause) : State :=
  let k := s.carriage c
  s.raiseBoth .cut .console
    (.carriageFault c cause k.missed k.vat (k.vat.bind fun v => (s.vat v).slot) k.tag)

/-- Every order withdrawn when the Cut station becomes ABSENT, the order granted later first (R109). -/
def State.withdrawForAbsence (s : State) : State :=
  match s.lastGranted with
  | some 0 => (s.withdrawOrder 0 .absent).withdrawOrder 1 .absent
  | _ => (s.withdrawOrder 1 .absent).withdrawOrder 0 .absent

/-- The carriage record after its cut has ended or its vat has been released (R105, R106). -/
def CarriageRecord.released (k : CarriageRecord) : CarriageRecord :=
  { k with vat := none, tag := none, orderedAt := none, startedAt := none, slice := none }

end Sys2Proof.Machine
end

