-- ==== Sys2Proof/Machine/LineArbiter.lean ====
section
/-! DEFINITION. The curd line arbiter's operations: the dump lists (R39, R117), the lot counter (R121), grants (R118 to
R120), withdrawals (R125), the short check (R129), the early window and the allowance (R135, R136). -/

namespace Sys2Proof.Machine

/-! ### The dump lists -/

/-- Whether a dump entry of this kind for a vat belongs in the LATE list now (R39): NORMAL, with heal-max present and
reached by the make clock (R22). R39's ruling on a heal-min that is applied before a heal-max of the same second is
State.healsTogether (log 37). -/
def State.belongsLate (s : State) (v : Vat) (kind : EntryKind) : Bool :=
  decide (kind = .normal) && s.reached (s.vat v).healMax

/-- A dump entry for a vat, made now (R39). -/
def State.dumpEntry (s : State) (v : Vat) (kind : EntryKind) (early : Bool) : DumpEntry :=
  { vat := v, slot := (s.vat v).slot, kind := kind, early := early, joined := s.clock }

/-- An entry joins the tail of the list it belongs in (R39). -/
def State.joinDump (s : State) (v : Vat) (kind : EntryKind) (early : Bool) : State :=
  if s.belongsLate v kind then { s with lateList := s.lateList ++ [s.dumpEntry v kind early] }
  else { s with routine := s.routine ++ [s.dumpEntry v kind early] }

/-- An entry returns from a withdrawn order to the head of the list it belongs in now (R39, R41). -/
def State.returnDump (s : State) (v : Vat) (kind : EntryKind) (early : Bool) : State :=
  if s.belongsLate v kind then { s with lateList := s.dumpEntry v kind early :: s.lateList }
  else { s with routine := s.dumpEntry v kind early :: s.routine }

/-- The vat becomes DUMP-QUEUED with an entry of this kind (R38, R40, R46). -/
def State.queueDump (s : State) (v : Vat) (kind : EntryKind) (early : Bool) : State :=
  (s.modVat v fun r => { r with stage := .dumpQueued, stepPending := .nothing }).joinDump v kind early

/-- The vat becomes DUMP-QUEUED with a NORMAL entry at the ROUTINE tail, whatever the clock says of its heal-max: heal-min
applied before a heal-max of the same second (R39, log 37). -/
def State.queueRoutine (s : State) (v : Vat) : State :=
  let t := s.modVat v fun r => { r with stage := .dumpQueued, stepPending := .nothing }
  { t with routine := t.routine ++ [t.dumpEntry v .normal false] }

/-- The NORMAL entry of a DUMP-QUEUED vat moved from ROUTINE to the LATE tail, keeping its fields (R39); none when there is
no such entry. -/
def State.moveLate (s : State) (v : Vat) : Option State :=
  match pick? (fun e => decide (e.vat = v ∧ e.kind = .normal)) s.routine with
  | some (e, rest) => some { s with routine := rest, lateList := s.lateList ++ [e] }
  | none => none

/-! ### Lot numbers (R121) -/

/-- The lot number after a number: 1 to 4095 and then 1 again; 0 is not issued. -/
def nextLot (n : Nat) : Nat := if n < 4095 then n + 1 else 1

/-- The lot of a number in the lot list. -/
def State.findLot (s : State) (n : Nat) : Option Lot := s.lots.find? fun x => decide (x.number = n)

/-- The first number, from `n` on in turn, that no lot of the list has; a list of `fuel` lots can pass over as many. -/
def freeLot (lots : List Lot) : Nat → Nat → Nat
  | 0, n => n
  | fuel + 1, n => if lots.any (fun x => decide (x.number = n)) then freeLot lots fuel (nextLot n) else n

/-- The lot number the counter will issue. -/
def State.lotToIssue (s : State) : Nat := freeLot s.lots s.lots.length s.line.lotCounter

/-- The lot list without the lot of a number (R122). -/
def withoutLot (lots : List Lot) (n : Nat) : List Lot := dropOne (fun x => decide (x.number = n)) lots

/-! ### Grants (R118 to R120) -/

/-- An entry chosen for a grant: whether it stands in LATE, the entry, and its list without it. -/
structure DumpChoice where
  fromLate : Bool
  entry : DumpEntry
  rest : List DumpEntry

/-- Whether a ROUTINE entry may be granted: its vat is not held, and it is WASTE, or NORMAL while moulds-low is off
(R119). -/
def State.routineEligible (s : State) (e : DumpEntry) : Bool :=
  !s.isHeld e.vat && (decide (e.kind = .waste) || !s.line.mouldsLow)

/-- The entry to grant (R119). -/
def State.chooseDump (s : State) : Option DumpChoice :=
  match pick? (fun e => !s.isHeld e.vat) s.lateList with
  | some (e, rest) => some ⟨true, e, rest⟩
  | none => match pick? s.routineEligible s.routine with
    | some (e, rest) => some ⟨false, e, rest⟩
    | none => none

/-- The kind of the lot a grant makes (R120). -/
def DumpChoice.lotKind (x : DumpChoice) : LotKind :=
  if x.fromLate then .late
  else match x.entry.kind with
    | .normal => .normal
    | .waste => .waste

/-- The lot a grant makes (R120, R122). -/
def State.lotFor (s : State) (x : DumpChoice) : Lot :=
  { number := s.lotToIssue, vat := x.entry.vat, slot := x.entry.slot, batch := (s.vat x.entry.vat).batch,
    kind := x.lotKind, early := x.entry.early, expected := (s.vat x.entry.vat).filled, received := none, short := false,
    state := .ordered, granted := s.clock }

/-- The DUMP ORDER of a lot (R120). -/
def State.dumpOrderFor (s : State) (x : Lot) : Notice :=
  .dumpOrder x.number x.slot x.vat x.batch x.kind x.early x.expected (after s.clock s.settings.dumpStartLimit)

/-- The line granted to the chosen entry, in one step (R41, R120). -/
def State.applyLineGrant (s : State) (x : DumpChoice) : State :=
  let lot := s.lotFor x
  let t := if x.fromLate then { s with lateList := x.rest } else { s with routine := x.rest }
  let t := { t with lots := s.lots ++ [lot] }
  let t := t.modLine fun k =>
    { k with state := .ordered, current := some lot.number, orderedAt := some s.clock, startedAt := none,
             start := some (.begin s.settings.dumpStartLimit), lotCounter := nextLot lot.number }
  (t.modVat x.entry.vat fun r => { r with lot := some lot.number }).raise .press (s.dumpOrderFor lot)

/-- One look at the grant conditions: the grant they allow, if any (R119). -/
def State.grantLine (s : State) : Option State :=
  if decide (s.line.state = .free) && !s.frozen.line && s.present .press && (s.link .press).hasRoom
      && decide (s.lots.length < Config.lotRoom)
  then s.chooseDump.map s.applyLineGrant
  else none

/-- The arbiter looks at its grant conditions (R118). The line is ORDERED after a grant, so a second cannot follow. -/
def State.lineLook (s : State) : State := s.grantLine.getD s

/-! ### Withdrawals and the end of a dump -/

/-- The line with no current lot (R125, R128, R130). -/
def LineRecord.released (k : LineRecord) : LineRecord :=
  { k with current := none, orderedAt := none, startedAt := none, start := none, duration := none }

/-- The line FREE since now (R125, R128, R131). -/
def LineRecord.freed (k : LineRecord) (clock : Nat) : LineRecord := { k with state := .free, freeSince := clock }

/-- The kind of the entry a lot was made from: a LATE lot was a NORMAL entry (R41, R120). -/
def LotKind.entryKind : LotKind → EntryKind
  | .normal => .normal
  | .late => .normal
  | .waste => .waste

/-- The dump order of a lot withdrawn (R41, R125), up to the look that follows. -/
def State.withdrawDump (s : State) (x : Lot) (cause : DumpWithdrawCause) : State :=
  let t := { s with lots := withoutLot s.lots x.number }
  let t := t.modLine fun k => k.released.freed s.clock
  let t := (t.modVat x.vat fun r => { r with lot := none }).returnDump x.vat x.kind.entryKind x.early
  t.raise .press (.dumpWithdrawn x.number x.vat x.slot cause)

/-- The line's current lot, as the lot list holds it. -/
def State.currentLot (s : State) : Option Lot := s.line.current.bind s.findLot

/-- Whether a lot is short: the difference of the two volumes, in either direction, times 100, exceeds the tolerance times
the expected volume (R129). -/
def isShort (tolerance expected received : Nat) : Bool :=
  decide (tolerance * expected < (expected - received + (received - expected)) * 100)

/-- The early window with a completed dump at its tail, the head dropped when a ninth joins (R135). -/
def joinWindow (w : List CompletedDump) (d : CompletedDump) : List CompletedDump :=
  let w := w ++ [d]
  if Config.windowRoom < w.length then w.tail else w

/-- Whether the early-dump allowance is in use (R136). -/
def State.allowanceInUse (s : State) : Bool :=
  s.window.any CompletedDump.early ||
    allVats.any fun v => (s.vat v).early && decide ((s.vat v).stage = .dumpQueued ∨ (s.vat v).stage = .dumping)

end Sys2Proof.Machine
end

