-- ==== Sys2Proof/Machine/BankOps.lean ====
section
/-! DEFINITION. The bank controllers' operations: takes, hits and misses (R54 to R57), closes (R58), the end of a fill for
its vat (R26), suspensions (R64), faults (R67), rinses (R79, R80), priming (R81), parking (R83 to R85), and the outputs
(R51, R73, R174). -/

namespace Sys2Proof.Machine

/-! ### The vat table's side of a transfer -/

/-- A record cleared: its vat returns to VACANT (R3). -/
def State.clearVat (s : State) (v : Vat) : State := s.modVat v VatRecord.cleared

/-- A fill that ends without reaching its target: CHARGED if anything was filled, else VACANT with the record cleared
(R26). -/
def State.endFill (s : State) (v : Vat) : State :=
  if 0 < (s.vat v).filled then s.modVat v fun r => { r with stage := .charged } else s.clearVat v

/-- A bank reports a take (R24): a FILL-QUEUED vat becomes FILLING, and FILL STARTED is queued for every FILL entry taken;
a WASH entry makes no change. -/
def State.reportTake (s : State) (b : Bank) (e : Transfer) : State :=
  match e.kind with
  | .wash => s
  | .fill =>
    (s.modVat e.vat fun r => if r.stage = .fillQueued then { r with stage := .filling } else r).raise .fill
      (.fillStarted (s.vat e.vat).slot e.vat b e.resumed e.volume)

/-! ### Eligibility and the park timer -/

/-- Whether an entry of a transfer list is eligible (R54). -/
def State.eligible (s : State) (e : Transfer) : Bool :=
  !s.isHeld e.vat && (decide (e.kind = .wash) || s.present .fill)

/-- Whether a bank's list holds an eligible entry. -/
def State.hasEligible (s : State) (b : Bank) : Bool := (s.bank b).list.any s.eligible

/-- The park timer of a bank brought to what R83 says: it runs while the bank is READY with no eligible entry and the park
delay is not 0, starting from 0; otherwise it is stopped and not kept. -/
def State.parkLook (s : State) (b : Bank) : State :=
  if decide ((s.bank b).state = .ready) && !s.hasEligible b && decide (s.settings.parkDelay ≠ 0)
  then s.modBank b fun k => { k with park := some (k.park.getD 0) }
  else s.modBank b fun k => { k with park := none }

/-- The park timers of several banks brought to what R83 says. -/
def State.parkLooks (s : State) (bs : List Bank) : State := bs.foldl State.parkLook s

/-! ### Takes, hits and misses (R55, R57) -/

/-- A READY bank takes an entry: it drives the path open and enters OPENING (R55). -/
def State.takeTransfer (s : State) (b : Bank) (e : Transfer) (rest : List Transfer) : State :=
  (s.modBank b fun k =>
    { k with state := .opening, path := some e.vat, current := some ⟨e, .openingPath, false⟩, list := rest,
             travel := some (.begin s.settings.travelLimit), park := none }).reportTake b e

/-- An OPEN bank takes an entry for its open-path vat: it feeds at once, with no valve travel (R57). -/
def State.hitTransfer (s : State) (b : Bank) (e : Transfer) (rest : List Transfer) : State :=
  (s.modBank b fun k =>
    { k with current := some ⟨e, .running, false⟩, list := rest,
             noFlow := some (.begin s.settings.noFlowTime) }).reportTake b e

/-- What a bank remembers of its path-open timer when it drives OPEN off: the count, when it has reached the limit (R52,
R63, log 21). -/
def State.stoppedAt (s : State) (pathOpen : Option Nat) : Option StoppedPath :=
  match pathOpen with
  | some n => if s.settings.pathOpenLimit * 60 ≤ n then some ⟨s.clock, n⟩ else none
  | none => none

/-- A bank begins to close its path (R52, R58). -/
def State.beginClose (s : State) (b : Bank) (cause : CloseCause) : State :=
  s.modBank b fun k =>
    { k with state := .closing, closeCause := some cause, closePhase := some .travel,
             travel := some (.begin s.settings.travelLimit), pathOpen := none,
             stoppedPath := s.stoppedAt k.pathOpen }

/-- Whether a bank may look at its list: banks are not frozen, its rinse pending mark is off, and it is READY, or OPEN with
no current transfer (R55, R57). -/
def State.mayTake (s : State) (b : Bank) : Bool :=
  let k := s.bank b
  !s.frozen.banks && !k.rinsePending && (decide (k.state = .ready) || (decide (k.state = .opened) && k.current.isNone))

/-- A bank looks at its take conditions: a READY bank takes its head-most eligible entry, an OPEN one hits or misses on it
(R54, R55, R57). -/
def State.bankLook (s : State) (b : Bank) : State :=
  if s.mayTake b then
    match pick? s.eligible (s.bank b).list with
    | none => s
    | some (e, rest) =>
      if (s.bank b).state = .ready then s.takeTransfer b e rest
      else if (s.bank b).path = some e.vat then s.hitTransfer b e rest
      else s.beginClose b .miss
  else s

/-! ### Rinses and READY (R79, R80) -/

/-- A bank takes a rinse and enters RINSING (R80). -/
def State.takeRinse (s : State) (b : Bank) : State :=
  s.modBank b fun k =>
    { k with state := .rinsing, rinsePending := false, rinseOverdue := false,
             rinse := some (.begin s.settings.rinseDuration), park := none, closeCause := none, closePhase := none }

/-- A bank enters READY: it takes a pending rinse at once (R79), else looks at its take conditions, and its park timer
starts when nothing is eligible (R58, R75, R80, R82, R83). -/
def State.enterReady (s : State) (b : Bank) : State :=
  let t := s.modBank b fun k =>
    { k with state := .ready, closeCause := none, closePhase := none, drain := none, startPhase := none,
             flushesDone := none, flush := none, rinse := none }
  (if (t.bank b).rinsePending then t.takeRinse b else t.bankLook b).parkLook b

/-- A transfer has ended with the path left open: the bank closes for a pending rinse, else looks at its list (R59, R62,
R79). -/
def State.afterTransfer (s : State) (b : Bank) : State :=
  if (s.bank b).rinsePending then s.beginClose b .rinse else s.bankLook b

/-- What a bank does at a match that sets its rinse pending mark (R79). -/
def State.actOnRinse (s : State) (b : Bank) : State :=
  match (s.bank b).state, (s.bank b).current with
  | .ready, _ => s.takeRinse b
  | .opened, none => s.beginClose b .rinse
  | _, _ => s

/-! ### Closing (R58) -/

/-- The drain ends: DRAIN goes off and the bank leaves CLOSING by its close cause (R58). -/
def State.endDrain (s : State) (b : Bank) : State :=
  let t := s.modBank b fun k => { k with drain := none }
  match (s.bank b).closeCause with
  | some .miss => t.enterReady b
  | some .limit => t.takeRinse b
  | some .rinse => t.takeRinse b
  | none => t

/-- PROVED is seen low in the TRAVEL phase: the path becomes absent and the drain begins; with a drain interval of 0 it ends
in the same step (R58). -/
def State.beginDrain (s : State) (b : Bank) : State :=
  let t := s.modBank b fun k =>
    { k with path := none, travel := none, stoppedPath := none, closePhase := some .drain,
             drain := some (.begin s.settings.drainInterval) }
  if s.settings.drainInterval = 0 then t.endDrain b else t

/-! ### Suspensions and faults (R64, R67) -/

/-- A bank's current transfer placed at the head of its list with the resumed mark (R64). -/
def BankRecord.suspended (k : BankRecord) : BankRecord :=
  match k.current with
  | some c => { k with current := none, noFlow := none, list := { c.entry with resumed := true } :: k.list }
  | none => k

/-- The transfer that a fault of the bank suspends or drops (R71). -/
def State.lostTransfer (s : State) (b : Bank) : Option LostTransfer :=
  (s.bank b).current.map fun c =>
    { vat := c.entry.vat, slot := (s.vat c.entry.vat).slot, kind := c.entry.kind, volume := c.entry.volume }

/-- A bank's record in FAULTED: path, transfer and timers gone, close and start fields absent; the list, the rinse counter
and the rinse marks as they stand (R67, R77, R79). A PARKED bank that faults holds its count until PRIMING too: the model's
choice (log 33). -/
def BankRecord.faulted (k : BankRecord) (cause : BankFaultCause) : BankRecord :=
  { k with state := .faulted, path := none, current := none, closeCause := none, closePhase := none, travel := none,
           drain := none, pathOpen := none, stoppedPath := none, noFlow := none, faultCause := some cause,
           startPhase := none, flushesDone := none, flush := none, rinse := none, park := none, parkDrain := none,
           parkPulse := none }

/-- The current transfer of a bank that faults: dropped when its cancel mark is set, and its vat then CHARGED or VACANT
(R26, R62); otherwise suspended to the list head (R64). -/
def State.loseTransfer (s : State) (b : Bank) : State :=
  match (s.bank b).current with
  | none => s
  | some c => if c.cancel then s.endFill c.entry.vat else s.modBank b BankRecord.suspended

/-- A bank faults (R67). -/
def State.faultBank (s : State) (b : Bank) (cause : BankFaultCause) : State :=
  (((s.loseTransfer b).modBank b fun k => k.faulted cause).raiseBoth .fill .console
    (.bankFault b cause (s.lostTransfer b)))

/-! ### Priming and parking (R81, R84, R85) -/

/-- A bank enters PRIMING and runs one flush (R81). -/
def State.enterPriming (s : State) (b : Bank) : State :=
  s.modBank b fun k =>
    { k with state := .priming, faultCause := none, rinseCount := 0, flush := some (.begin s.settings.flushDuration),
             park := none, parkDrain := none, parkPulse := none }

/-- A READY bank parks: the park drain pulse begins, and with a drain interval of 0 it ends in the same step (R84). -/
def State.parkBank (s : State) (b : Bank) : State :=
  let interval := s.settings.drainInterval
  s.modBank b fun k =>
    { k with state := .parked, park := none, parkDrain := some (decide (interval ≠ 0)),
             parkPulse := if interval = 0 then none else some (.begin interval) }

/-- An entry joins the tail of a bank's list: it wakes a PARKED bank (R85), and any other looks at its take conditions
(R53, R54). -/
def State.joinTransfer (s : State) (b : Bank) (e : Transfer) : State :=
  let t := s.modBank b fun k => { k with list := k.list ++ [e] }
  if (t.bank b).state = .parked then t.enterPriming b else (t.bankLook b).parkLook b

/-- The WASH entry of a vat that leaves DUMPING, which becomes WASHING (R43). -/
def State.queueWash (s : State) (v : Vat) : State :=
  (s.modVat v fun r => { r with stage := .washing, lot := none }).joinTransfer (s.bankOf v)
    { vat := v, kind := .wash, target := s.settings.washVolume, volume := 0, resumed := false }

/-- Whether a PARKED bank is woken by the entries for which `becomes` says that they may just have become eligible
(R85). -/
def State.wakes (s : State) (becomes : Transfer → Bool) (b : Bank) : Bool :=
  decide ((s.bank b).state = .parked) && (s.bank b).list.any fun e => becomes e && s.eligible e

/-- Whether a bank's look at its take conditions finds something to do. -/
def State.looksUseful (s : State) (b : Bank) : Bool := s.mayTake b && s.hasEligible b

/-- Several banks look at their take conditions in one step, in a free order (log 17), those that are PARKED waking for
entries that `becomes` allows; then their park timers are brought to what R83 says. -/
def State.bankLooks (s : State) (becomes : Transfer → Bool) (bs : List Bank) : State :=
  let acting := bs.filter fun b => s.wakes becomes b || s.looksUseful b
  (s.forEachFreely acting fun b t => if t.wakes becomes b then t.enterPriming b else t.bankLook b).parkLooks bs

/-- The banks whose lists hold an entry for a vat. -/
def State.banksListing (s : State) (v : Vat) : List Bank :=
  allBanks.filter fun b => (s.bank b).list.any fun e => decide (e.vat = v)

/-! ### The path-open limit (R63) -/

/-- Whether the path-open limit is due on a bank: its timer's count has reached the limit setting while the path is open, or
was due when the bank drove OPEN off in this same second (R52, R63). -/
def State.pathLimitDue (s : State) (b : Bank) : Bool :=
  let k := s.bank b
  let limit := s.settings.pathOpenLimit * 60
  match k.state with
  | .opened => match k.pathOpen with
    | some n => decide (limit ≤ n)
    | none => false
  | .closing => match k.stoppedPath with
    | some p => decide (k.closePhase = some .travel ∧ k.closeCause ≠ some .limit ∧ p.clock = s.clock ∧ limit ≤ p.count)
    | none => false
  | _ => false

/-- FILL SUSPENDED for a fill suspended by the path-open limit (R64, R71). -/
def State.raiseSuspended (s : State) (b : Bank) : State :=
  match (s.bank b).current with
  | some c => match c.entry.kind with
    | .fill => s.raise .fill
        (.fillSuspended (s.vat c.entry.vat).slot c.entry.vat b c.entry.volume c.entry.target)
    | .wash => s
  | none => s

/-- The path-open limit expires on a bank (R63). -/
def State.expirePath (s : State) (b : Bank) : State :=
  match (s.bank b).state with
  | .opened => ((s.raiseSuspended b).modBank b BankRecord.suspended).beginClose b .limit
  | .closing => s.modBank b fun k => { k with closeCause := some .limit }
  | _ => s

/-! ### The outputs (R51, R73, R174) -/

/-- What a bank drives on its lines. SEL is the vat number or 0, MEDIUM is the kind fed (R51). -/
structure Outputs where
  sel : Nat
  openValve : Bool
  drain : Bool
  rinse : Bool
  feed : Bool
  medium : TransferKind
deriving DecidableEq, Repr

/-- The closed value of every output (R50). -/
def Outputs.closed : Outputs := ⟨0, false, false, false, false, .wash⟩

/-- The number SEL carries for a path (R51). -/
def selFor (path : Option Vat) : Nat :=
  match path with
  | some v => v.val + 1
  | none => 0

/-- The outputs of a bank by its state, its close phase, its start phase, its park drain and its transfer (R51, R73). -/
def BankRecord.outputs (k : BankRecord) : Outputs :=
  match k.state with
  | .start => if k.startPhase = some .flush then { Outputs.closed with drain := true, rinse := true } else .closed
  | .priming => { Outputs.closed with drain := true, rinse := true }
  | .ready => .closed
  | .opening =>
    { Outputs.closed with sel := selFor k.path, openValve := true,
                          medium := (k.current.map fun c => c.entry.kind).getD .wash }
  | .opened => match k.current with
    | some c =>
      { Outputs.closed with sel := selFor k.path, openValve := true, feed := decide (c.phase = .running),
                            medium := c.entry.kind }
    | none => { Outputs.closed with sel := selFor k.path, openValve := true }
  | .closing => match k.closePhase with
    | some .drain => { Outputs.closed with drain := true }
    | _ => { Outputs.closed with sel := selFor k.path }
  | .rinsing => { Outputs.closed with drain := true, rinse := true }
  | .parked => { Outputs.closed with drain := k.parkDrain.getD false }
  | .faulted => .closed

/-- What a bank drives: its closed values while the part is held in reset (R172), else by its record. -/
def State.outputs (s : State) (b : Bank) : Outputs := if s.inReset then .closed else (s.bank b).outputs

/-- The ten output pins of a bank (R174): SEL4 to SEL0, then OPEN, DRAIN, RINSE, FEED and MEDIUM, high for milk. -/
def Outputs.pins (o : Outputs) : BitVec 10 :=
  BitVec.ofNat 5 o.sel ++ BitVec.ofBool o.openValve ++ BitVec.ofBool o.drain ++ BitVec.ofBool o.rinse ++
    BitVec.ofBool o.feed ++ BitVec.ofBool (decide (o.medium = .fill))

end Sys2Proof.Machine
end

