-- ==== Sys2Proof/Machine/Presence.lean ====
section
/-! DEFINITION. The presence of the Fill, Cut and Press stations, and what the blocks do at its changes (R109, R126, R151). -/

namespace Sys2Proof.Machine

/-- A PRESENT station becomes ABSENT (R151): its timer stops, STATION ABSENT is queued on the Console link, and the block
that reads its presence acts. FILL entries cease to be eligible (R54, R83); orders that stand are withdrawn (R109); the
curd line does nothing (R126). -/
def State.becomeAbsent (s : State) (l : Link) (cause : AbsentCause) : State :=
  if s.present l then
    let t := (s.modLink l fun u => { u with presence := none }).raise .console (.stationAbsent l cause)
    match l with
    | .fill => t.parkLooks allBanks
    | .cut => t.withdrawForAbsence.cutLook
    | .press => t
    | .console => t
  else s

/-- An ABSENT station becomes PRESENT (R151): its timer starts from 0, STATION PRESENT is queued on the Console link, and
the block that reads its presence looks at its take or grant conditions (R69, R85, R93, R118). -/
def State.becomePresent (s : State) (l : Link) : State :=
  let t := (s.modLink l fun u => { u with presence := some 0 }).raise .console (.stationPresent l)
  match l with
  | .fill => t.bankLooks (fun e => decide (e.kind = .fill)) allBanks
  | .cut => t.cutLook
  | .press => t.lineLook
  | .console => t

/-- A valid frame on a link counts for presence (R145, R151); the Console link keeps none. -/
def State.heard (s : State) (l : Link) : State :=
  if l = .console then s
  else if s.present l then s.modLink l fun u => { u with presence := some 0 }
  else s.becomePresent l

/-- The links whose presence timers have reached the presence timeout as it stands (R151). -/
def State.presenceDue (s : State) (l : Link) : Bool :=
  match (s.link l).presence with
  | some n => decide (l ≠ .console ∧ s.settings.presenceTimeout ≤ n)
  | none => false

end Sys2Proof.Machine
end

