-- ==== Sys2Proof/Machine/Resets.lean ====
section
/-! DEFINITION. What a reset leaves (R4, R50, R74, R153, R171): the full reset of power-on and RESETN, and the effect of an
accepted RESTART. -/

namespace Sys2Proof.Machine

/-- The FLUSH phase of START begins, with its first flush (R74, R75). -/
def BankRecord.beginFlushing (k : BankRecord) (duration : Nat) : BankRecord :=
  { k with startPhase := some .flush, travel := none, flush := some (.begin duration) }

/-- A bank after a reset: in the PROVE phase with its travel timer running, or, when PROVED is already low, in the FLUSH
phase at once (R74, log 19). -/
def startedBank (t : Settings) (proved : Bool) : BankRecord :=
  if proved then .reset t.travelLimit else (BankRecord.reset t.travelLimit).beginFlushing t.flushDuration

/-- The state in which the part comes out of a power-on reset or of RESETN, with the straps and the PROVED levels as they
stand at the release (R171, R172). The queue of commands, the free counter and the EDIT level are not reset. -/
def State.fullReset (s : State) (straps : Straps) (proved : Vector Bool 4) : State :=
  { State.reset with
    straps := straps, proved := proved, edit := s.edit, drawn := s.drawn, pending := s.pending,
    banks := Vector.ofFn fun b => startedBank Settings.default proved[b] }

/-- The state an accepted RESTART brings (R153, R170, R171): as a full reset, but settings, slot map and service are kept,
and the straps are not sampled. -/
def State.restartNow (s : State) : State :=
  { State.reset with
    straps := s.straps, proved := s.proved, edit := s.edit, drawn := s.drawn, pending := s.pending,
    settings := s.settings, slotMap := s.slotMap,
    vats := Vector.ofFn fun v => (s.vats[v]).cleared,
    banks := Vector.ofFn fun b => startedBank s.settings s.proved[b],
    links := ⟨.reset s.links.fill.inBreak, .reset s.links.cut.inBreak, .reset s.links.press.inBreak,
      .reset s.links.console.inBreak⟩ }

/-- RESETN is recognised (R172, R153): the part is held in reset, a frame being sent stops on every link, and an accepted
RESTART is cancelled. The outputs are closed while it lasts (State.outputs). -/
def State.holdReset (s : State) : State :=
  { s with
    inReset := true, restartAccepted := false,
    links := ⟨{ s.links.fill with sending := none }, { s.links.cut with sending := none },
      { s.links.press with sending := none }, { s.links.console with sending := none }⟩ }

/-- Whether a message is the reply of an accepted RESTART (R153, R170): kind 0xD4, the RESTART kind with its top bit set,
answered DONE. -/
def Message.isRestartReply : Message → Bool
  | .reply kind _ result _ => decide (kind = 0xD4 ∧ result = .done)
  | .notice _ => false

end Sys2Proof.Machine
end

