-- ==== Sys2Proof/Machine/Handler.lean ====
section
/-! DEFINITION. The request handler: the taking of a request (R147, R154), the checks in their order (R155), and the reply
(R160). -/

namespace Sys2Proof.Machine

/-- What a meaning of a commanded step answers. -/
abbrev Answer := Host.Outcome State Fault Refusal

/-- A request being taken: the link it came on and its frame. -/
structure Asking where
  link : Link
  frame : Frame
deriving DecidableEq, Repr

/-- The frame the request handler can take from a link now: the head of its receive buffer, when the link's transmit queue
has a free entry (R147, R154). None is taken while the part is held in reset (R172), and none from the Console link once a
RESTART has been accepted (R170). -/
def State.takable (s : State) (l : Link) : Option Frame :=
  if s.inReset || (decide (l = .console) && s.restartAccepted) || !(s.link l).hasRoom then none
  else (s.link l).buffer.head?

/-- The state in the step of a taking: the frame leaves the buffer and the EDIT line is read (R154). -/
def State.taken (s : State) (l : Link) (edit : Bool) : State :=
  { s with edit := edit }.modLink l fun u => { u with buffer := u.buffer.tail }

/-- The reply to a request joins the transmit queue of its link, into the room that the taking required (R148, R154): the
request's kind with the top bit set, its tag, the result and the data. -/
def State.answer (s : State) (a : Asking) (result : Result) (data : List Field) : State :=
  s.modLink a.link fun u =>
    { u with queue := u.queue ++ [.reply (a.frame.kind ||| 0x80) a.frame.tag result data] }

/-- A reply that carries its result alone: a refusal, or a DONE with no data (R160). -/
def State.refuse (s : State) (a : Asking) (result : Result) : State := s.answer a result []
def State.done (s : State) (a : Asking) : State := s.answer a .done []

/-- The checks of R155 that do not look at the fields, in their order: kind, size, role, permit. -/
def firstChecks (r : Request) (a : Asking) (edit : Bool) : Option Result :=
  if r = .unknownKindRequest then some .unknown
  else if a.frame.payload.length ≠ payloadSize r then some .length
  else if !allowedOn r a.link then some .role
  else if isConfiguration r && !edit then some .permit
  else none

/-- A request of row `r` taken from link `l` with the EDIT line at `edit`: its first checks, and then `own`, which makes the
range check and the owner's checks and applies the request. When no frame of this row can be taken, the step does not come
about (log 4). -/
def State.takeRequest (r : Request) (l : Link) (edit : Bool) (own : Asking → State → State) (s : State) : State :=
  match s.takable l with
  | none => s
  | some f =>
    if f.request = r then
      let t := s.taken l edit
      match firstChecks r ⟨l, f⟩ edit with
      | some result => t.refuse ⟨l, f⟩ result
      | none => own ⟨l, f⟩ t
    else s

/-! ### The field checks most requests share -/

/-- The range check of one field: RANGE when it names nothing, else the rest of the request (R155, check 5). -/
def State.inRange {α : Type} (s : State) (a : Asking) (field : Option α) (rest : α → State) : State :=
  match field with
  | none => s.refuse a .range
  | some x => rest x

/-- A slot resolved through the slot map: UNMAPPED when its entry names no vat, else the rest of the request (R6). -/
def State.resolved (s : State) (a : Asking) (slot : Slot) (rest : Vat → State) : State :=
  match s.slotMap[slot] with
  | none => s.refuse a .unmapped
  | some v => rest v

/-- A request whose one field is a slot: its range check and its resolution (R6, R155). -/
def State.onSlot (s : State) (a : Asking) (rest : Vat → State) : State :=
  s.inRange a (slotOf? (a.frame.byteAt 0)) fun slot => s.resolved a slot rest

end Sys2Proof.Machine
end

