-- ==== Sys2Proof/Machine/Reports.lean ====
section
/-! DEFINITION. The reports of QUERY and VAT QUERY (R18, R72, R88, R114, R138), cut into parts and coded (R161, R165). -/

namespace Sys2Proof.Machine

/-- A report: the fields of part 0, the list items that follow it, and how many of them go to a part (R165). -/
structure Report where
  head : List Field
  items : List (List Field)
  perPart : Nat
deriving DecidableEq, Repr

/-- How many parts a report has: part 0, and as many as its items fill (R165). -/
def Report.parts (r : Report) : Nat := 1 + (r.items.length + r.perPart - 1) / r.perPart

/-- The fields of one part; a part beyond the last has none (R165). -/
def Report.part (r : Report) : Nat → List Field
  | 0 => r.head
  | p + 1 => ((r.items.drop (p * r.perPart)).take r.perPart).flatten

/-- The data of a reply that carries one part: the subject, the number, the part asked for, the number of parts, and the
part (R165). -/
def Report.data (r : Report) (subject number part : Nat) : List Field :=
  [.one subject, .one number, .one part, .one r.parts] ++ r.part part

/-! ### The vat report (R18) -/

/-- The six times of a vat report, in part 1 (R18, R165). -/
def VatRecord.times (r : VatRecord) : List Field :=
  [.timeIf r.setTime, .timeIf r.cutOpen, .timeIf r.cutClose, .timeIf r.cutDone, .timeIf r.healMin, .timeIf r.healMax]

/-- The report of a vat (R18). It always has two parts (R165). Each of the four values of the class snapshot has a presence
byte of its own: the model's reading (log 34). -/
def State.vatReport (s : State) (v : Vat) : Report :=
  let r := s.vat v
  { head :=
      [.vat v, .one r.service.code, .one r.stage.code, .slot r.slot, .mark r.held, .mark r.stepMode,
        .one r.stepPending.code, .mark r.early, .mark r.waste, .mark r.declared, .twoIf r.batch,
        .oneIf (r.recipe.map Fin.val), .twoIf (r.snapshot.map ClassTimes.firmMin),
        .twoIf (r.snapshot.map ClassTimes.firmMax), .twoIf (r.snapshot.map ClassTimes.healMin),
        .twoIf (r.snapshot.map ClassTimes.healMax), .twoOrZero r.target, .two r.filled, .carriageIf r.carriage,
        .twoOrZero r.lot],
    items := [r.times], perPart := 1 }

/-! ### The bank report (R72, R88) -/

/-- The first vat of a bank's zone, by its number (R48). -/
def Settings.zoneStart (t : Settings) (b : Bank) : Nat := if b = 0 then 1 else t.zoneEnd (b - 1) + 1

/-- The first and the last vat of a bank's zone; none when it is empty (R48, R72). -/
def Settings.zone (t : Settings) (b : Bank) : Option (Nat × Nat) :=
  if t.zoneStart b ≤ t.zoneEnd b then some (t.zoneStart b, t.zoneEnd b) else none

/-- Whether a bank's rinse counter runs (R77). -/
def State.rinseCounts (s : State) (b : Bank) : Bool :=
  let k := s.bank b
  decide (s.settings.rinseInterval ≠ 0) && decide (k.state ≠ .parked) && decide (k.state ≠ .faulted)

/-- The park state of a bank (R88). -/
inductive ParkState
  | timing | parkedDraining | parked | notParked
deriving DecidableEq, Repr

/-- TIMING, PARKED-DRAINING, PARKED, NONE, in the order of R88 (log 16). -/
def ParkState.code : ParkState → Nat
  | .timing => 1
  | .parkedDraining => 2
  | .parked => 3
  | .notParked => 4

/-- The park state of a bank, from its record (R88). -/
def BankRecord.parkState (k : BankRecord) : ParkState :=
  if k.park.isSome then .timing
  else if k.state = .parked then if k.parkDrain = some true then .parkedDraining else .parked
  else .notParked

/-- An entry of a transfer list in a bank report (R72). -/
def Transfer.fields (e : Transfer) : List Field :=
  [.vat e.vat, .one e.kind.code, .two e.target, .two e.volume, .mark e.resumed]

/-- The current transfer in a bank report, each field absent when there is none (R72, R161). The cancel mark is given as
present for every current transfer, 'no' outside OPENING-PATH: the model's choice (log 35). -/
def currentFields (c : Option Current) : List Field :=
  [.vatIf (c.map fun c => c.entry.vat), .oneOrZero (c.map fun c => c.entry.kind.code),
    .twoOrZero (c.map fun c => c.entry.target), .twoIf (c.map fun c => c.entry.volume),
    .markIf (c.map fun c => c.entry.resumed), .oneOrZero (c.map fun c => c.phase.code), .markIf (c.map Current.cancel)]

/-- The seconds elapsed of the flush or rinse now running (R88). -/
def BankRecord.elapsed (k : BankRecord) : Option Nat := (k.flush.orElse fun _ => k.rinse).map Timer.count

/-- The flushes done, in the FLUSH phase (R88). -/
def BankRecord.flushesShown (k : BankRecord) : Option Nat := if k.startPhase = some .flush then k.flushesDone else none

/-- The report of a bank (R72, R88), the fields of R88 that R72 does not name after those of R72, but for the park timer's
count, which is coded with the park state it belongs to, at R72's place: the model's choice (log 36). -/
def State.bankReport (s : State) (b : Bank) : Report :=
  let k := s.bank b
  { head :=
      [.bank b, .oneOrZero ((s.settings.zone b).map Prod.fst), .oneOrZero ((s.settings.zone b).map Prod.snd),
        .one k.state.code, .oneOrZero (k.faultCause.map BankFaultCause.code), .vatIf k.path, .twoIf k.pathOpen,
        .oneOrZero (k.closeCause.map CloseCause.code), .oneOrZero (k.closePhase.map ClosePhase.code)]
      ++ currentFields k.current ++
      [.one k.list.length, .mark k.rinsePending, .mark k.rinseOverdue, .one k.parkState.code, .twoIf k.park,
        .mark s.frozen.banks, .oneOrZero (k.startPhase.map StartPhase.code), .oneIf k.flushesShown, .twoIf k.elapsed,
        .two k.rinseCount, .mark (s.rinseCounts b)],
    items := k.list.map Transfer.fields, perPart := 6 }

/-! ### The carriage and cut list reports (R114) -/

/-- The seconds left on whichever of two timers runs (R114, R138). -/
def secondsLeft (a b : Option Timer) : Option Nat := (a.orElse fun _ => b).map Timer.left

/-- The report of a carriage (R114). -/
def State.carriageReport (s : State) (c : Carriage) : Report :=
  let k := s.carriage c
  { head :=
      [.one s.settings.reach[c].low, .one s.settings.reach[c].high, .one k.state.code, .mark k.blocked,
        .oneOrZero (k.faultCause.map CarriageFaultCause.code), .time k.freeSince, .one k.missed, .vatIf k.vat,
        .slot (k.vat.bind fun v => (s.vat v).slot), .oneOrZero k.tag, .timeIf k.orderedAt, .timeIf k.startedAt,
        .twoIf (secondsLeft k.start k.slice), .mark s.frozen.carriages, .mark s.routinePause],
    items := [], perPart := 1 }

/-- An entry of a cut list in its report (R114). -/
def State.cutEntryFields (s : State) (e : CutEntry) : List Field :=
  [.vat e.vat, .slot e.slot, .timeIf e.cutClose, .time e.joined, .mark (s.isHeld e.vat)]

/-- The report of the cut lists (R114): URGENT and then OPEN. -/
def State.cutListsReport (s : State) : Report :=
  { head := [.one s.urgent.length, .one s.openList.length, .one s.tagToIssue],
    items := (s.urgent ++ s.openList).map s.cutEntryFields, perPart := 3 }

/-! ### The curd line's reports (R138) -/

/-- The report of the line (R138). -/
def State.lineReport (s : State) : Report :=
  let k := s.line
  let lot := s.currentLot
  { head :=
      [.one k.state.code, .oneOrZero (k.faultCause.map LineFaultCause.code), .time k.freeSince, .twoOrZero k.current,
        .vatIf (lot.map Lot.vat), .slot (lot.bind Lot.slot), .oneOrZero (lot.map fun x => x.kind.code),
        .timeIf k.orderedAt, .timeIf k.startedAt, .twoIf (secondsLeft k.start k.duration), .mark k.mouldsLow,
        .mark s.frozen.line, .one s.lots.length, .two s.lotToIssue],
    items := [], perPart := 1 }

/-- A lot in the report of the lot list (R138). -/
def Lot.fields (x : Lot) : List Field :=
  [.two x.number, .vat x.vat, .slot x.slot, .twoOf x.batch, .one x.kind.code, .mark x.early, .two x.expected,
    .twoIf x.received, .mark x.short, .one x.state.code, .time x.granted]

/-- The report of the lot list (R138). -/
def State.lotListReport (s : State) : Report :=
  { head := [.one s.lots.length], items := s.lots.map Lot.fields, perPart := 2 }

/-- An entry of a dump list in its report (R138). -/
def State.dumpEntryFields (s : State) (e : DumpEntry) : List Field :=
  [.vat e.vat, .slot e.slot, .one e.kind.code, .mark e.early, .time e.joined, .mark (s.isHeld e.vat)]

/-- The report of the dump lists (R138): LATE and then ROUTINE. -/
def State.dumpListsReport (s : State) : Report :=
  { head := [.one s.lateList.length, .one s.routine.length],
    items := (s.lateList ++ s.routine).map s.dumpEntryFields, perPart := 4 }

/-- The report of the early window (R138): the count of its entries (R165, log 13), every entry, and whether the allowance
is free. -/
def State.windowReport (s : State) : Report :=
  { head := [.one s.window.length] ++ s.window.flatMap (fun d => [.two d.lot, .mark d.early])
      ++ [.mark (!s.allowanceInUse)],
    items := [], perPart := 1 }

/-! ### The requests that read and change nothing: the eight QUERY rows and VAT QUERY (R19, R72, R114, R138, R165) -/

/-- A QUERY of a subject whose number is read by `read` and reported by `report`: RANGE for another subject or a number out
of range, else DONE with the part asked for (R165). -/
def State.applyQuery {α : Type} (subject : Nat) (read : Nat → Option α) (report : State → α → Report) (a : Asking)
    (s : State) : State :=
  if a.frame.byteAt 0 ≠ subject then s.refuse a .range
  else match read (a.frame.byteAt 1) with
    | none => s.refuse a .range
    | some x => s.answer a .done ((report s x).data subject (a.frame.byteAt 1) (a.frame.byteAt 2))

/-- The number of a subject that has no numbers is 0 (R165). -/
def zeroOf? (x : Nat) : Option Unit := if x = 0 then some () else none

/-- QUERY_VAT (R18, R19). -/
def execQueryVat (l : Link) (edit : Bool) (s : State) : Answer :=
  .next (State.takeRequest .queryVat l edit (State.applyQuery 1 vatOf? State.vatReport) s)

/-- QUERY_BANK (R72). -/
def execQueryBank (l : Link) (edit : Bool) (s : State) : Answer :=
  .next (State.takeRequest .queryBank l edit (State.applyQuery 2 bankOf? State.bankReport) s)

/-- QUERY_CARRIAGE (R114). -/
def execQueryCarriage (l : Link) (edit : Bool) (s : State) : Answer :=
  .next (State.takeRequest .queryCarriage l edit (State.applyQuery 3 carriageOf? State.carriageReport) s)

/-- QUERY_LINE (R138). -/
def execQueryLine (l : Link) (edit : Bool) (s : State) : Answer :=
  .next (State.takeRequest .queryLine l edit (State.applyQuery 4 zeroOf? fun t _ => t.lineReport) s)

/-- QUERY_LOT_LIST (R138). -/
def execQueryLotList (l : Link) (edit : Bool) (s : State) : Answer :=
  .next (State.takeRequest .queryLotList l edit (State.applyQuery 5 zeroOf? fun t _ => t.lotListReport) s)

/-- QUERY_CUT_LISTS (R114). -/
def execQueryCutLists (l : Link) (edit : Bool) (s : State) : Answer :=
  .next (State.takeRequest .queryCutLists l edit (State.applyQuery 6 zeroOf? fun t _ => t.cutListsReport) s)

/-- QUERY_DUMP_LISTS (R138). -/
def execQueryDumpLists (l : Link) (edit : Bool) (s : State) : Answer :=
  .next (State.takeRequest .queryDumpLists l edit (State.applyQuery 7 zeroOf? fun t _ => t.dumpListsReport) s)

/-- QUERY_EARLY_WINDOW (R138). -/
def execQueryEarlyWindow (l : Link) (edit : Bool) (s : State) : Answer :=
  .next (State.takeRequest .queryEarlyWindow l edit (State.applyQuery 8 zeroOf? fun t _ => t.windowReport) s)

end Sys2Proof.Machine
end

