-- ==== Sys2Proof/Machine/BankSteps.lean ====
section
/-! DEFINITION. The meanings of a bank's inputs and timers (R56, R58 to R60, R63, R65, R66, R74, R75, R78, R80, R82, R84). An
expiry is due when its timer has reached its limit; when it is not due it has no effect (log 3). -/

namespace Sys2Proof.Machine

/-! ### PROVED (R56, R58, R66, R74, R175) -/

/-- `s` with the filtered level of a bank's PROVED input as last seen (R175). -/
def State.seeProved (s : State) (b : Bank) (level : Bool) : State := { s with proved := s.proved.set b level }

/-- PROVED comes high in OPENING: the bank enters OPEN, and its transfer runs, or ends when its cancel mark is set (R26,
R56). -/
def State.openPath (s : State) (b : Bank) : State :=
  let opened : BankRecord → BankRecord := fun k => { k with state := .opened, travel := none, pathOpen := some 0 }
  match (s.bank b).current with
  | some c =>
    if c.cancel then
      ((s.modBank b fun k => { opened k with current := none }).endFill c.entry.vat).afterTransfer b
    else s.modBank b fun k =>
      { opened k with current := some { c with phase := .running }, noFlow := some (.begin s.settings.noFlowTime) }
  | none => s.modBank b opened

/-- A rise of PROVED by the bank's state (R56, R66, R74). In the states where PROVED cannot have been low it has no effect
(log 22). -/
def State.applyProvedRise (s : State) (b : Bank) : State :=
  match (s.bank b).state with
  | .opening => s.openPath b
  | .start => if (s.bank b).startPhase = some .flush then s.faultBank b .valve else s
  | .closing => if (s.bank b).closePhase = some .drain then s.faultBank b .valve else s
  | .ready => s.faultBank b .valve
  | .rinsing => s.faultBank b .valve
  | .priming => s.faultBank b .valve
  | .parked => s.faultBank b .valve
  | .opened => s
  | .faulted => s

/-- PROVED_RISE (R56). It is a change of the level; while the part is held in reset only the level is followed. -/
def execProvedRise (b : Bank) (s : State) : Answer :=
  .next (if s.proved[b] then s
    else if s.inReset then s.seeProved b true
    else (s.seeProved b true).applyProvedRise b)

/-- A fall of PROVED by the bank's state (R58, R66, R74). In the states where PROVED cannot have been high it has no effect
(log 22). -/
def State.applyProvedFall (s : State) (b : Bank) : State :=
  match (s.bank b).state with
  | .opened => s.faultBank b .valve
  | .closing => if (s.bank b).closePhase = some .travel then s.beginDrain b else s
  | .start =>
    if (s.bank b).startPhase = some .prove then s.modBank b fun k => k.beginFlushing s.settings.flushDuration else s
  | _ => s

/-- PROVED_FALL (R58). It is a change of the level; while the part is held in reset only the level is followed. -/
def execProvedFall (b : Bank) (s : State) : Answer :=
  .next (if !s.proved[b] then s
    else if s.inReset then s.seeProved b false
    else (s.seeProved b false).applyProvedFall b)

/-! ### FLOW (R59, R65) -/

/-- The litres of a pulse added to a vat's filled volume by a FILL (R59). -/
def State.addFilled (s : State) (c : Current) (litres : Nat) : State :=
  match c.entry.kind with
  | .fill => s.modVat c.entry.vat fun r => { r with filled := r.filled + litres }
  | .wash => s

/-- The vat table's side of a completed transfer (R25, R44). -/
def State.reportComplete (s : State) (e : Transfer) : State :=
  let r := s.vat e.vat
  match e.kind with
  | .fill =>
    (s.modVat e.vat fun r => { r with stage := .charged }).raise .fill (.fillComplete r.slot e.vat r.batch r.filled)
  | .wash => (s.clearVat e.vat).raise .fill (.washComplete r.slot e.vat)

/-- A pulse is metered by the RUNNING transfer `c`, which completes at its target (R59). -/
def State.meter (s : State) (b : Bank) (c : Current) : State :=
  let litres := s.settings.litresPerPulse
  let e : Transfer := { c.entry with volume := c.entry.volume + litres }
  let t := s.addFilled c litres
  if e.target ≤ e.volume then
    ((t.modBank b fun k => { k with current := none, noFlow := none }).reportComplete e).afterTransfer b
  else t.modBank b fun k =>
    { k with current := some { c with entry := e }, noFlow := some (.begin s.settings.noFlowTime) }

/-- A FLOW pulse: metered by a RUNNING transfer, without effect on a FAULTED bank, and stray otherwise (R59, R65). -/
def State.applyFlow (s : State) (b : Bank) : State :=
  if (s.bank b).state = .faulted then s
  else match (s.bank b).current with
    | some c => if c.phase = .running then s.meter b c else s.faultBank b .stray
    | none => s.faultBank b .stray

/-- FLOW_PULSE (R59). -/
def execFlowPulse (b : Bank) (s : State) : Answer := .next (if s.inReset then s else s.applyFlow b)

/-! ### The travel timer (R66, R74) and the drain timer (R58) -/

/-- Whether a bank's travel timer has expired. -/
def State.travelDue (s : State) (b : Bank) : Bool := due (s.bank b).travel

/-- The travel timer's expiry: PRIME in START, VALVE in OPENING and CLOSING (R66, R74). -/
def State.applyTravelExpiry (s : State) (b : Bank) : State :=
  s.faultBank b (if (s.bank b).state = .start then .prime else .valve)

/-- TRAVEL_TIMER_EXPIRY (R66). -/
def execTravelTimerExpiry (b : Bank) (s : State) : Answer :=
  .next (if !s.inReset && s.travelDue b then s.applyTravelExpiry b else s)

/-- Whether a bank's drain timer has expired. -/
def State.drainDue (s : State) (b : Bank) : Bool := due (s.bank b).drain

/-- DRAIN_TIMER_EXPIRY (R58). -/
def execDrainTimerExpiry (b : Bank) (s : State) : Answer :=
  .next (if !s.inReset && s.drainDue b then s.endDrain b else s)

/-! ### The path-open limit (R63) and the no-flow timer (R60) -/

/-- PATH_OPEN_LIMIT (R63). -/
def execPathOpenLimit (b : Bank) (s : State) : Answer :=
  .next (if !s.inReset && s.pathLimitDue b then s.expirePath b else s)

/-- Whether a bank's no-flow timer has expired. -/
def State.noFlowDue (s : State) (b : Bank) : Bool := due (s.bank b).noFlow

/-- The notice of a stall (R60, R71). -/
def State.stallNotice (s : State) (b : Bank) (e : Transfer) : Notice :=
  let slot := (s.vat e.vat).slot
  match e.kind with
  | .fill => .fillStalled slot e.vat b e.volume e.target
  | .wash => .washStalled slot e.vat b e.volume e.target

/-- The no-flow timer's expiry: a RUNNING transfer stalls, and a STALLED wash runs again (R60). The timer starts again for a
wash, and stays stopped for a STALLED fill. -/
def State.applyNoFlow (s : State) (b : Bank) : State :=
  let again : Option Timer := some (.begin s.settings.noFlowTime)
  match (s.bank b).current with
  | none => s
  | some c =>
    if c.phase = .running then
      (s.modBank b fun k =>
        { k with current := some { c with phase := .stalled },
                 noFlow := if c.entry.kind = .wash then again else none }).raise .fill (s.stallNotice b c.entry)
    else s.modBank b fun k => { k with current := some { c with phase := .running }, noFlow := again }

/-- NO_FLOW_TIMER_EXPIRY (R60). -/
def execNoFlowTimerExpiry (b : Bank) (s : State) : Answer :=
  .next (if !s.inReset && s.noFlowDue b then s.applyNoFlow b else s)

/-! ### Flushes (R75, R82) and rinses (R78, R80) -/

/-- Whether a bank's flush timer has expired. -/
def State.flushDue (s : State) (b : Bank) : Bool := due (s.bank b).flush

/-- The start sequence, or the flush of PRIMING, ends: both rinse marks go off and the bank enters READY (R75, R82). -/
def State.endPriming (s : State) (b : Bank) : State :=
  (s.modBank b fun k => { k with rinsePending := false, rinseOverdue := false }).enterReady b

/-- The flush timer's expiry: in START the next flush, while flushes done is less than the count, else the end; in PRIMING
the end (R75, R82). -/
def State.applyFlushExpiry (s : State) (b : Bank) : State :=
  let k := s.bank b
  let done := k.flushesDone.getD 0 + 1
  if k.state = .start ∧ done < s.settings.flushCount then
    s.modBank b fun k => { k with flushesDone := some done, flush := some (.begin s.settings.flushDuration) }
  else s.endPriming b

/-- FLUSH_TIMER_EXPIRY (R75). -/
def execFlushTimerExpiry (b : Bank) (s : State) : Answer :=
  .next (if !s.inReset && s.flushDue b then s.applyFlushExpiry b else s)

/-- Whether a bank's running rinse counter has reached the rinse interval as it stands (R78). -/
def State.rinseMatchDue (s : State) (b : Bank) : Bool :=
  s.rinseCounts b && decide (s.settings.rinseInterval * 60 ≤ (s.bank b).rinseCount)

/-- A match: the count becomes 0; a rinse falls pending and the bank acts on it, or merges with the one pending and is
overdue (R78, R79). -/
def State.applyRinseMatch (s : State) (b : Bank) : State :=
  let k := s.bank b
  if k.rinsePending then
    (s.modBank b fun k => { k with rinseCount := 0, rinseOverdue := true }).raise .console
      (.rinseOverdue b k.state (k.current.map Current.entry))
  else (s.modBank b fun k => { k with rinseCount := 0, rinsePending := true }).actOnRinse b

/-- RINSE_COUNTER_MATCH (R78). -/
def execRinseCounterMatch (b : Bank) (s : State) : Answer :=
  .next (if !s.inReset && s.rinseMatchDue b then s.applyRinseMatch b else s)

/-- Whether a bank's rinse timer has expired. -/
def State.rinseDue (s : State) (b : Bank) : Bool := due (s.bank b).rinse

/-- RINSE_TIMER_EXPIRY: the rinse ends and the bank enters READY (R80). -/
def execRinseTimerExpiry (b : Bank) (s : State) : Answer :=
  .next (if !s.inReset && s.rinseDue b then s.enterReady b else s)

/-! ### Parking (R84) -/

/-- Whether a bank's running park timer has reached the park delay as it stands (R84). -/
def State.parkDue (s : State) (b : Bank) : Bool :=
  match (s.bank b).park with
  | some n => decide (s.settings.parkDelay ≠ 0 ∧ s.settings.parkDelay * 60 ≤ n)
  | none => false

/-- PARK_TIMER_EXPIRY (R84). -/
def execParkTimerExpiry (b : Bank) (s : State) : Answer :=
  .next (if !s.inReset && s.parkDue b then s.parkBank b else s)

/-- Whether a bank's park drain pulse has lasted its drain interval. -/
def State.parkPulseDue (s : State) (b : Bank) : Bool := due (s.bank b).parkPulse

/-- PARK_DRAIN_END: DRAIN and park drain go off (R84). -/
def execParkDrainEnd (b : Bank) (s : State) : Answer :=
  .next (if !s.inReset && s.parkPulseDue b then
      s.modBank b fun k => { k with parkDrain := some false, parkPulse := none }
    else s)

end Sys2Proof.Machine
end

