-- ==== Sys2Proof/Machine/SettingsItems.lean ====
section
/-! DEFINITION. The items of the settings store (R162): their numbers, their values, the range check of a SET (R11, R49,
R70, R86, R90, R113, R137, R151, R164), the BUSY checks (R49, R90), and GET (R163). -/

namespace Sys2Proof.Machine

/-- The settings items (R162). -/
inductive Item
  | firmMin (c : RecipeClass)
  | firmMax (c : RecipeClass)
  | healMin (c : RecipeClass)
  | healMax (c : RecipeClass)
  | zoneEnd (b : Bank)
  | travelLimit
  | drainInterval
  | pathOpenLimit
  | rinseInterval
  | rinseDuration
  | flushCount
  | flushDuration
  | parkDelay
  | litresPerPulse
  | noFlowTime
  | washVolume
  | urgencyMargin
  | cutStartLimit
  | cutSliceLimit
  | strikes
  | reachLow (c : Carriage)
  | reachHigh (c : Carriage)
  | dumpStartLimit
  | dumpDurationLimit
  | volumeTolerance
  | presenceTimeout
deriving DecidableEq, Repr

/-- The class item of a number 1 to 32: 1 + 4c to 4 + 4c for class c (R162). -/
def classItem (n : Nat) : Option Item :=
  match classOf? ((n - 1) / 4), (n - 1) % 4 with
  | some c, 0 => some (.firmMin c)
  | some c, 1 => some (.firmMax c)
  | some c, 2 => some (.healMin c)
  | some c, _ => some (.healMax c)
  | none, _ => none

/-- The item a number names (R162). -/
def itemOf? (n : Nat) : Option Item :=
  if 1 ≤ n ∧ n ≤ 32 then classItem n
  else match n with
    | 40 => some (.zoneEnd 0)
    | 41 => some (.zoneEnd 1)
    | 42 => some (.zoneEnd 2)
    | 43 => some (.zoneEnd 3)
    | 44 => some .travelLimit
    | 45 => some .drainInterval
    | 46 => some .pathOpenLimit
    | 47 => some .rinseInterval
    | 48 => some .rinseDuration
    | 49 => some .flushCount
    | 50 => some .flushDuration
    | 51 => some .parkDelay
    | 52 => some .litresPerPulse
    | 53 => some .noFlowTime
    | 54 => some .washVolume
    | 60 => some .urgencyMargin
    | 61 => some .cutStartLimit
    | 62 => some .cutSliceLimit
    | 63 => some .strikes
    | 64 => some (.reachLow 0)
    | 65 => some (.reachHigh 0)
    | 66 => some (.reachLow 1)
    | 67 => some (.reachHigh 1)
    | 70 => some .dumpStartLimit
    | 71 => some .dumpDurationLimit
    | 72 => some .volumeTolerance
    | 80 => some .presenceTimeout
    | _ => none

/-- The four times of a class (R10). -/
def Settings.timesOf (t : Settings) (c : RecipeClass) : ClassTimes := t.classes[c]

/-- The reach of a carriage (R90). -/
def Settings.reachOf (t : Settings) (c : Carriage) : Reach := t.reach[c]

/-- The value the store holds for an item (R163). -/
def Settings.get (t : Settings) : Item → Nat
  | .firmMin c => (t.timesOf c).firmMin
  | .firmMax c => (t.timesOf c).firmMax
  | .healMin c => (t.timesOf c).healMin
  | .healMax c => (t.timesOf c).healMax
  | .zoneEnd b => t.zoneEnd b
  | .travelLimit => t.travelLimit
  | .drainInterval => t.drainInterval
  | .pathOpenLimit => t.pathOpenLimit
  | .rinseInterval => t.rinseInterval
  | .rinseDuration => t.rinseDuration
  | .flushCount => t.flushCount
  | .flushDuration => t.flushDuration
  | .parkDelay => t.parkDelay
  | .litresPerPulse => t.litresPerPulse
  | .noFlowTime => t.noFlowTime
  | .washVolume => t.washVolume
  | .urgencyMargin => t.urgencyMargin
  | .cutStartLimit => t.cutStartLimit
  | .cutSliceLimit => t.cutSliceLimit
  | .strikes => t.strikes
  | .reachLow c => (t.reachOf c).low
  | .reachHigh c => (t.reachOf c).high
  | .dumpStartLimit => t.dumpStartLimit
  | .dumpDurationLimit => t.dumpDurationLimit
  | .volumeTolerance => t.volumeTolerance
  | .presenceTimeout => t.presenceTimeout

/-- The store with the four times of a class changed. -/
def Settings.modClass (t : Settings) (c : RecipeClass) (f : ClassTimes → ClassTimes) : Settings :=
  { t with classes := t.classes.set c (f (t.timesOf c)) }

/-- The store with a reach changed. -/
def Settings.modReach (t : Settings) (c : Carriage) (f : Reach → Reach) : Settings :=
  { t with reach := t.reach.set c (f (t.reachOf c)) }

/-- The store with a new value for an item (R164). -/
def Settings.put (t : Settings) (i : Item) (v : Nat) : Settings :=
  match i with
  | .firmMin c => t.modClass c fun x => { x with firmMin := v }
  | .firmMax c => t.modClass c fun x => { x with firmMax := v }
  | .healMin c => t.modClass c fun x => { x with healMin := v }
  | .healMax c => t.modClass c fun x => { x with healMax := v }
  | .zoneEnd b => { t with zoneEnds := t.zoneEnds.set b v }
  | .travelLimit => { t with travelLimit := v }
  | .drainInterval => { t with drainInterval := v }
  | .pathOpenLimit => { t with pathOpenLimit := v }
  | .rinseInterval => { t with rinseInterval := v }
  | .rinseDuration => { t with rinseDuration := v }
  | .flushCount => { t with flushCount := v }
  | .flushDuration => { t with flushDuration := v }
  | .parkDelay => { t with parkDelay := v }
  | .litresPerPulse => { t with litresPerPulse := v }
  | .noFlowTime => { t with noFlowTime := v }
  | .washVolume => { t with washVolume := v }
  | .urgencyMargin => { t with urgencyMargin := v }
  | .cutStartLimit => { t with cutStartLimit := v }
  | .cutSliceLimit => { t with cutSliceLimit := v }
  | .strikes => { t with strikes := v }
  | .reachLow c => t.modReach c fun x => { x with low := v }
  | .reachHigh c => t.modReach c fun x => { x with high := v }
  | .dumpStartLimit => { t with dumpStartLimit := v }
  | .dumpDurationLimit => { t with dumpDurationLimit := v }
  | .volumeTolerance => { t with volumeTolerance := v }
  | .presenceTimeout => { t with presenceTimeout := v }

/-- The end before a bank's zone end, end(0) being 0 (R48, R49). -/
def Settings.endBefore (t : Settings) (b : Bank) : Nat := if b = 0 then 0 else t.zoneEnd (b - 1)

/-- The end after a bank's zone end, end(5) being 24 (R49). -/
def Settings.endAfter (t : Settings) (b : Bank) : Nat := if b = 3 then 24 else t.zoneEnd (b + 1)

/-- The range check of a SET: the item's own range, and the orderings with the other items as they stand (R164). -/
def Settings.allows (t : Settings) (i : Item) (v : Nat) : Bool :=
  match i with
  | .firmMin c => within 300 7200 v && decide (v + 60 ≤ (t.timesOf c).firmMax)
  | .firmMax c => decide (v ≤ 10800 ∧ (t.timesOf c).firmMin + 60 ≤ v)
  | .healMin c => within 0 7200 v && decide (v ≤ (t.timesOf c).healMax)
  | .healMax c => decide (v ≤ 14400 ∧ (t.timesOf c).healMin ≤ v)
  | .zoneEnd b =>
    within 0 24 v && decide (t.endBefore b ≤ v ∧ v ≤ t.endAfter b) && (decide (b ≠ 3) || decide (v = 24))
  | .travelLimit => within 2 60 v
  | .drainInterval => within 0 600 v
  | .pathOpenLimit => within 5 240 v
  | .rinseInterval => decide (v = 0) || within 10 480 v
  | .rinseDuration => within 30 1800 v
  | .flushCount => within 1 16 v
  | .flushDuration => within 10 300 v
  | .parkDelay => decide (v = 0) || within 1 240 v
  | .litresPerPulse => decide (v = 1 ∨ v = 2 ∨ v = 5 ∨ v = 10)
  | .noFlowTime => within 5 300 v
  | .washVolume => within 100 2000 v
  | .urgencyMargin => within 0 1800 v
  | .cutStartLimit => within 10 600 v
  | .cutSliceLimit => within 60 3600 v
  | .strikes => within 1 8 v
  | .reachLow c => within 1 24 v && decide (v ≤ (t.reachOf c).high)
  | .reachHigh c => within 1 24 v && decide ((t.reachOf c).low ≤ v)
  | .dumpStartLimit => within 10 600 v
  | .dumpDurationLimit => within 60 3600 v
  | .volumeTolerance => within 0 20 v
  | .presenceTimeout => within 1 60 v

/-- Whether a bank is idle for a SET of a zone end: READY or PARKED, with no entry, no current transfer and no path (R49). -/
def BankRecord.idle (k : BankRecord) : Bool :=
  decide (k.state = .ready ∨ k.state = .parked) && k.list.isEmpty && k.current.isNone && k.path.isNone

/-- Whether an item's owner refuses a SET with BUSY (R49, R90). -/
def State.busy (s : State) : Item → Bool
  | .zoneEnd _ => !allBanks.all fun b => (s.bank b).idle
  | .reachLow c => (s.carriage c).vat.isSome
  | .reachHigh c => (s.carriage c).vat.isSome
  | _ => false

/-! ### GET (R163) -/

/-- The data of a GET or SET reply: the item's number and its value in two bytes (R160, log 15). -/
def itemData (number value : Nat) : List Field := [.one number, .two value]

/-- GET: the value the store holds (R163). -/
def State.applyGet (a : Asking) (s : State) : State :=
  s.inRange a (itemOf? (a.frame.byteAt 0)) fun i =>
    s.answer a .done (itemData (a.frame.byteAt 0) (s.settings.get i))

/-- GET (R163). -/
def execGet (l : Link) (edit : Bool) (s : State) : Answer := .next (State.takeRequest .get l edit State.applyGet s)

end Sys2Proof.Machine
end

