-- ==== Sys2Proof/Machine/VatDeadlines.lean ====
section
/-! DEFINITION. The deadline events of the vat table (R30, R32, R33, R38, R39). Each is due while the make clock has reached
the deadline and the record stands where the deadline has an effect; when it is not due the event has no effect (R22,
log 3). -/

namespace Sys2Proof.Machine

/-- STEP PENDING on the Console link: the advance and the deadline that follows it (R47). -/
def State.raiseStepPending (s : State) (v : Vat) (advance : StepPending) (deadline : Option Nat) : State :=
  s.raise .console (.stepPending (s.vat v).slot v advance deadline)

/-! ### Cut-open (R30) -/

/-- Whether a vat's cut-open has an effect now. -/
def State.cutOpenDue (s : State) (v : Vat) : Bool :=
  let r := s.vat v
  decide (r.stage = .setting ∧ r.stepPending = .nothing) && s.reached r.cutOpen

/-- Cut-open is applied to a SETTING vat (R30). -/
def State.applyCutOpen (s : State) (v : Vat) : State :=
  if (s.vat v).stepMode then
    (s.modVat v fun r => { r with stepPending := .cutOpen }).raiseStepPending v .cutOpen (s.vat v).cutClose
  else (s.enterCutWindow v).cutLook

/-- CUT_OPEN_REACHED (R30). -/
def execCutOpenReached (v : Vat) (s : State) : Answer :=
  .next (if !s.inReset && s.cutOpenDue v then s.applyCutOpen v else s)

/-! ### The urgency moment (R32) -/

/-- Whether an entry of a vat stands in OPEN at or past its urgency moment. -/
def State.urgencyDue (s : State) (v : Vat) : Bool :=
  s.openList.any fun e => decide (e.vat = v) && s.urgencyReached e

/-- The entry moves to the URGENT tail, and the arbiter looks (R32, R93). -/
def State.applyUrgency (s : State) (v : Vat) : State :=
  match s.moveUrgent v with
  | some t => t.cutLook
  | none => s

/-- URGENCY_MOMENT (R32). -/
def execUrgencyMoment (v : Vat) (s : State) : Answer :=
  .next (if !s.inReset && s.urgencyDue v then s.applyUrgency v else s)

/-! ### Cut-close (R33) -/

/-- Whether a vat's cut-close has an effect now. -/
def State.cutCloseDue (s : State) (v : Vat) : Bool :=
  let r := s.vat v
  decide (r.stage = .setting ∨ r.stage = .cutWindow) && s.reached r.cutClose

/-- The carriage that stands ORDERED for a CUT-WINDOW vat (R33, R34). -/
def State.orderedFor (s : State) (v : Vat) : Option Carriage :=
  match (s.vat v).stage, (s.vat v).carriage with
  | .cutWindow, some c => if (s.carriage c).state = .ordered then some c else none
  | _, _ => none

/-- Cut-close is applied to a SETTING or CUT-WINDOW vat: its order is withdrawn, or its entry leaves its list, and it
becomes OVERSET; after a withdrawal the arbiter looks (R33, R93, R100). A SETTING vat has no entry. -/
def State.applyCutClose (s : State) (v : Vat) : State :=
  match s.orderedFor v with
  | some c => ((s.withdrawCut c v .cutClose false).raiseOverset v).cutLook
  | none => ((s.leaveCut v).becomeOverset v).raiseOverset v

/-- CUT_CLOSE_REACHED (R33). -/
def execCutCloseReached (v : Vat) (s : State) : Answer :=
  .next (if !s.inReset && s.cutCloseDue v then s.applyCutClose v else s)

/-! ### Heal-min (R38) -/

/-- Whether a vat's heal-min time has an effect now. -/
def State.healMinDue (s : State) (v : Vat) : Bool :=
  let r := s.vat v
  decide (r.stage = .working ∧ r.stepPending = .nothing) && s.reached r.healMin

/-- Whether heal-min and heal-max of a WORKING vat fall due together in this second, with neither applied yet (R39,
log 37). -/
def State.healsTogether (s : State) (v : Vat) : Bool :=
  let r := s.vat v
  decide (r.stage = .working ∧ r.stepPending = .nothing ∧ r.healMin = some s.clock ∧ r.healMax = some s.clock ∧
    r.healMaxFirst = false)

/-- Heal-min is applied to a WORKING vat (R38). When heal-max falls due in the same second and has not been applied, the
entry joins ROUTINE, from which heal-max then moves it; otherwise the clock decides its list (R39, log 37). -/
def State.applyHealMin (s : State) (v : Vat) : State :=
  if (s.vat v).stepMode then
    (s.modVat v fun r => { r with stepPending := .healMin }).raiseStepPending v .healMin (s.vat v).healMax
  else if s.healsTogether v then (s.queueRoutine v).lineLook
  else (s.queueDump v .normal false).lineLook

/-- Heal-min applied at once when it is due already, as after a CUT DONE or a DECLARE with a heal-min of 0 (R17, R36,
log 30). -/
def State.healMinAtOnce (s : State) (v : Vat) : State := if s.healMinDue v then s.applyHealMin v else s

/-- HEAL_MIN_REACHED (R38). -/
def execHealMinReached (v : Vat) (s : State) : Answer :=
  .next (if !s.inReset && s.healMinDue v then s.applyHealMin v else s)

/-! ### Heal-max (R39) -/

/-- Whether a vat's heal-max time has an effect now: the vat is DUMP-QUEUED with a NORMAL entry in ROUTINE, or it is WORKING
with heal-min due in this second too, where the order of the two is kept (R39, log 37). -/
def State.healMaxDue (s : State) (v : Vat) : Bool :=
  let r := s.vat v
  s.healsTogether v || (decide (r.stage = .dumpQueued) && s.reached r.healMax &&
    s.routine.any fun e => decide (e.vat = v ∧ e.kind = .normal))

/-- The entry moves to the LATE tail, and the arbiter looks; on a WORKING vat it is only kept that heal-max came first (R39,
R118, log 37). -/
def State.applyHealMax (s : State) (v : Vat) : State :=
  if s.healsTogether v then s.modVat v fun r => { r with healMaxFirst := true }
  else match s.moveLate v with
    | some t => t.lineLook
    | none => s

/-- HEAL_MAX_REACHED (R39). -/
def execHealMaxReached (v : Vat) (s : State) : Answer :=
  .next (if !s.inReset && s.healMaxDue v then s.applyHealMax v else s)

/-! ### The advance that waits for STEP (R15, R31) -/

/-- The advance that step pending records: into the cut window, or into the dump queue (R31). -/
def State.advance (s : State) (v : Vat) : State :=
  match (s.vat v).stepPending with
  | .nothing => s
  | .cutOpen => (s.enterCutWindow v).cutLook
  | .healMin => (s.queueDump v .normal false).lineLook

end Sys2Proof.Machine
end

