-- ==== Sys2Proof/Machine/ConfigRequests.lean ====
section
/-! DEFINITION. The meanings of the configuration requests of the Console link (R159): SET, MAP SLOT, SERVICE, DECLARE and
RESTART. -/

namespace Sys2Proof.Machine

/-! ### SET (R164) -/

/-- The entries of OPEN at or past their urgency moment move, and the arbiter looks (R32, R93). -/
def State.marginSet (s : State) : State := if s.openList.any s.urgencyReached then s.moveAllUrgent.cutLook else s

/-- Whether a bank's running path-open timer has reached the limit as it stands (R63). -/
def State.openPathDue (s : State) (b : Bank) : Bool := decide ((s.bank b).state = .opened) && s.pathLimitDue b

/-- The path-open limit expires on every bank whose path-open timer it makes due (R63), in a free order (log 17). -/
def State.pathLimitSet (s : State) : State := s.forEachFreely (allBanks.filter s.openPathDue) fun b t => t.expirePath b

/-- The count of every rinse counter becomes 0 (R87). -/
def State.rinseIntervalSet (s : State) : State := s.mapBanks fun _ k => { k with rinseCount := 0 }

/-- Park timers start or stop with the new delay, and those at or past it expire (R84, R87). -/
def State.parkDelaySet (s : State) : State :=
  let t := s.parkLooks allBanks
  (allBanks.filter t.parkDue).foldl State.parkBank t

/-- The presence timeout expires on every link on which it is due (R151), in a free order (log 17). -/
def State.presenceSet (s : State) : State :=
  s.forEachFreely (allLinks.filter s.presenceDue) fun l t => t.becomeAbsent l .timeout

/-- What an item's owner does in the step of its SET (R164). -/
def State.actOnSet (s : State) : Item → State
  | .urgencyMargin => s.marginSet
  | .reachLow _ => s.cutLook
  | .reachHigh _ => s.cutLook
  | .pathOpenLimit => s.pathLimitSet
  | .rinseInterval => s.rinseIntervalSet
  | .parkDelay => s.parkDelaySet
  | .presenceTimeout => s.presenceSet
  | _ => s

/-- A SET that is taken: the store holds the value and the owner acts. The value the item already holds changes nothing,
but for the rinse interval (R164). -/
def State.setItem (s : State) (i : Item) (v : Nat) : State :=
  if s.settings.get i = v ∧ i ≠ .rinseInterval then s
  else { s with settings := s.settings.put i v }.actOnSet i

/-- SET (R164): the range check, BUSY, and the effect. -/
def State.applySet (a : Asking) (s : State) : State :=
  s.inRange a (itemOf? (a.frame.byteAt 0)) fun i =>
    let v := a.frame.pairAt 1
    if !s.settings.allows i v then s.refuse a .range
    else if s.busy i then s.refuse a .busy
    else (s.answer a .done (itemData (a.frame.byteAt 0) v)).setItem i v

/-- SET (R164). -/
def execSet (l : Link) (edit : Bool) (s : State) : Answer := .next (State.takeRequest .set l edit State.applySet s)

/-! ### MAP SLOT (R5, R7, R8) -/

/-- The slot field of a vat written, for a vat that an entry names. -/
def State.writeSlot (s : State) (v : Option Vat) (slot : Option Slot) : State :=
  match v with
  | some v => s.modVat v fun r => { r with slot := slot }
  | none => s

/-- An entry of the slot map changed, with the slot fields of the vats concerned (R5). -/
def State.remap (s : State) (slot : Slot) (v : Option Vat) : State :=
  let t := (s.writeSlot s.slotMap[slot] none).writeSlot v (some slot)
  { t with slotMap := t.slotMap.set slot v }

/-- Whether the vat an entry names, if any, is VACANT. -/
def State.vacantOr (s : State) (v : Option Vat) : Bool :=
  match v with
  | some v => decide ((s.vat v).stage = .vacant)
  | none => true

/-- Whether some entry of the slot map names a vat (R7). -/
def State.mapped (s : State) (v : Vat) : Bool := (List.finRange 32).any fun n => decide (s.slotMap[n] = some v)

/-- MAP SLOT with a vat, in the order of R7. -/
def State.applyMapSlot (a : Asking) (s : State) : State :=
  match slotOf? (a.frame.byteAt 0), vatOf? (a.frame.byteAt 1) with
  | some slot, some v =>
    if s.slotMap[slot] = some v then s.done a
    else if s.mapped v then s.refuse a .conflict
    else if !s.vacantOr s.slotMap[slot] || !s.vacantOr (some v) then s.refuse a .stage
    else (s.done a).remap slot (some v)
  | _, _ => s.refuse a .range

/-- MAP_SLOT (R7). -/
def execMapSlot (l : Link) (edit : Bool) (s : State) : Answer :=
  .next (State.takeRequest .mapSlot l edit State.applyMapSlot s)

/-- MAP SLOT with none (R8). A slot already unmapped is answered DONE and stays as it is. -/
def State.applyUnmapSlot (a : Asking) (s : State) : State :=
  s.inRange a (slotOf? (a.frame.byteAt 0)) fun slot =>
    if !s.vacantOr s.slotMap[slot] then s.refuse a .stage else (s.done a).remap slot none

/-- UNMAP_SLOT (R8). -/
def execUnmapSlot (l : Link) (edit : Bool) (s : State) : Answer :=
  .next (State.takeRequest .unmapSlot l edit State.applyUnmapSlot s)

/-! ### SERVICE (R9) -/

/-- SERVICE: OUT only for a VACANT vat, IN always (R9). -/
def State.applyService (a : Asking) (s : State) : State :=
  match vatOf? (a.frame.byteAt 0), bitOf? (a.frame.byteAt 1) with
  | some v, some true => (s.done a).modVat v fun r => { r with service := .inUse }
  | some v, some false =>
    if (s.vat v).stage ≠ .vacant then s.refuse a .stage
    else (s.done a).modVat v fun r => { r with service := .outOfUse }
  | _, _ => s.refuse a .range

/-- SERVICE (R9). -/
def execService (l : Link) (edit : Bool) (s : State) : Answer :=
  .next (State.takeRequest .service l edit State.applyService s)

/-! ### DECLARE (R16, R17) -/

/-- The fields of a DECLARE, in the order of R159. -/
structure Declaration where
  slot : Slot
  recipe : RecipeClass
  batch : Nat
  volume : Nat
  stage : Stage
deriving DecidableEq, Repr

/-- A DECLARE as read from its frame; none when a field is out of range (R16). -/
def Frame.declaration (f : Frame) : Option Declaration :=
  match slotOf? (f.byteAt 0), classOf? (f.byteAt 1), rangeOf? 1000 30000 (f.pairAt 4), Stage.ofCode (f.byteAt 6) with
  | some slot, some recipe, some volume, some stage => some ⟨slot, recipe, f.pairAt 2, volume, stage⟩
  | _, _, _, _ => none

/-- The fields of a declared record that its target stage does not change (R17). -/
def VatRecord.declare (r : VatRecord) (d : Declaration) (times : ClassTimes) : VatRecord :=
  { r with stage := d.stage, batch := some d.batch, recipe := some d.recipe, snapshot := some times,
           target := some d.volume, filled := d.volume, declared := true }

/-- The times of a vat declared WORKING now (R2, R17). -/
def VatRecord.healFrom (r : VatRecord) (clock : Nat) (times : ClassTimes) : VatRecord :=
  { r with cutDone := some clock, healMin := some (after clock times.healMin), healMax := some (after clock times.healMax) }

/-- An accepted DECLARE: the record, and what its target stage proceeds to (R17). -/
def State.declareVat (s : State) (d : Declaration) (v : Vat) : State :=
  let times := s.settings.timesOf d.recipe
  let t := s.modVat v fun r => r.declare d times
  match d.stage with
  | .working => (t.modVat v fun r => r.healFrom s.clock times).healMinAtOnce v
  | .dumpQueued => (t.joinDump v .normal false).lineLook
  | _ => t

/-- DECLARE, its checks in the order of R16. -/
def State.applyDeclare (a : Asking) (s : State) : State :=
  s.inRange a a.frame.declaration fun d => s.resolved a d.slot fun v =>
    let r := s.vat v
    if r.service = .outOfUse then s.refuse a .service
    else if r.stage ≠ .vacant then s.refuse a .stage
    else if d.stage ≠ .charged ∧ d.stage ≠ .working ∧ d.stage ≠ .dumpQueued then s.refuse a .stage
    else (s.done a).declareVat d v

/-- DECLARE (R17). -/
def execDeclare (l : Link) (edit : Bool) (s : State) : Answer :=
  .next (State.takeRequest .declare l edit State.applyDeclare s)

/-! ### RESTART (R170) -/

/-- RESTART: answered DONE; the restart takes effect when the reply has been sent (R153, R170). -/
def execRestart (l : Link) (edit : Bool) (s : State) : Answer :=
  .next (State.takeRequest .restart l edit (fun a t => { t.done a with restartAccepted := true }) s)

end Sys2Proof.Machine
end

