-- ==== Sys2Proof/Machine/ConsoleRequests.lean ====
section
/-! DEFINITION. The meanings of the operational requests of the Console link that act on vats and on the freeze marks and
faults of the resources (R13, R15, R31, R37, R40, R45, R46, R68, R112, R131, R167, R168). -/

namespace Sys2Proof.Machine

/-- A request whose first field is a vat (R158). -/
def State.onVat (s : State) (a : Asking) (rest : Vat → State) : State := s.inRange a (vatOf? (a.frame.byteAt 0)) rest

/-! ### HOLD and RELEASE (R13, R14) -/

/-- HOLD: entries of the vat cease to be eligible, which may start a park timer (R13, R83). -/
def State.applyHold (a : Asking) (s : State) : State :=
  s.onVat a fun v =>
    if s.isHeld v then s.done a
    else ((s.done a).modVat v fun r => { r with held := true }).parkLooks (s.banksListing v)

/-- HOLD (R13). -/
def execHold (l : Link) (edit : Bool) (s : State) : Answer := .next (State.takeRequest .hold l edit State.applyHold s)

/-- RELEASE: entries of the vat become eligible, and every block looks (R14, R54, R85, R93, R118). -/
def State.applyRelease (a : Asking) (s : State) : State :=
  s.onVat a fun v =>
    if s.isHeld v then
      let t := (s.done a).modVat v fun r => { r with held := false }
      (t.bankLooks (fun e => decide (e.vat = v)) (t.banksListing v)).cutLook.lineLook
    else s.done a

/-- RELEASE (R13). -/
def execRelease (l : Link) (edit : Bool) (s : State) : Answer :=
  .next (State.takeRequest .release l edit State.applyRelease s)

/-! ### STEP MODE and STEP (R15, R31) -/

/-- STEP MODE: off clears step mode and performs the advance that waits (R15). -/
def State.applyStepMode (a : Asking) (s : State) : State :=
  match vatOf? (a.frame.byteAt 0), bitOf? (a.frame.byteAt 1) with
  | some v, some true => (s.done a).modVat v fun r => { r with stepMode := true }
  | some v, some false => ((s.done a).modVat v fun r => { r with stepMode := false }).advance v
  | _, _ => s.refuse a .range

/-- STEP_MODE (R15). -/
def execStepMode (l : Link) (edit : Bool) (s : State) : Answer :=
  .next (State.takeRequest .stepMode l edit State.applyStepMode s)

/-- STEP: performs the advance that waits; none waiting is STAGE (R31). -/
def State.applyStep (a : Asking) (s : State) : State :=
  s.onVat a fun v => if (s.vat v).stepPending = .nothing then s.refuse a .stage else (s.done a).advance v

/-- STEP (R31). -/
def execStep (l : Link) (edit : Bool) (s : State) : Answer := .next (State.takeRequest .step l edit State.applyStep s)

/-! ### DUMP EARLY, RELEASE OVERSET and DISCARD (R37, R40, R45, R46) -/

/-- DUMP EARLY, its checks in the order of R40. -/
def State.applyDumpEarly (a : Asking) (s : State) : State :=
  s.onSlot a fun v =>
    let r := s.vat v
    if r.stage ≠ .working then s.refuse a .stage
    else if r.stepPending ≠ .nothing then s.refuse a .stage
    else if s.allowanceInUse then s.refuse a .allowance
    else (((s.done a).modVat v fun r => { r with early := true }).queueDump v .normal true).lineLook

/-- DUMP_EARLY (R40). -/
def execDumpEarly (l : Link) (edit : Bool) (s : State) : Answer :=
  .next (State.takeRequest .dumpEarly l edit State.applyDumpEarly s)

/-- RELEASE OVERSET: the vat loses its cut-close and joins the URGENT tail (R37). -/
def State.applyReleaseOverset (a : Asking) (s : State) : State :=
  s.onSlot a fun v =>
    if (s.vat v).stage ≠ .overset then s.refuse a .stage
    else (((s.done a).modVat v fun r => { r with cutClose := none }).enterCutWindow v).cutLook

/-- RELEASE_OVERSET (R37). -/
def execReleaseOverset (l : Link) (edit : Bool) (s : State) : Answer :=
  .next (State.takeRequest .releaseOverset l edit State.applyReleaseOverset s)

/-- Whether DISCARD is accepted for a vat (R45). -/
def State.discardable (s : State) (v : Vat) : Bool :=
  let r := s.vat v
  match r.stage with
  | .charged => true
  | .setting => true
  | .cutWindow => r.carriage.isNone
  | .cutting => match r.carriage with
    | some c => decide ((s.carriage c).state = .faulted)
    | none => false
  | .working => true
  | .overset => true
  | _ => false

/-- The faulted carriage of a discarded CUTTING vat is released from it (R46, R106). -/
def State.releaseCarriageOf (s : State) (v : Vat) : State :=
  match (s.vat v).stage, (s.vat v).carriage with
  | .cutting, some c =>
    (s.modCarriage c CarriageRecord.released).modVat v fun r => { r with carriage := none }
  | _, _ => s

/-- An accepted DISCARD (R46). -/
def State.discard (s : State) (v : Vat) : State :=
  ((((s.leaveCut v).releaseCarriageOf v).modVat v fun r => { r with waste := true }).queueDump v .waste false).lineLook

/-- DISCARD (R45). -/
def State.applyDiscard (a : Asking) (s : State) : State :=
  s.onSlot a fun v => if s.discardable v then (s.done a).discard v else s.refuse a .stage

/-- DISCARD (R46). -/
def execDiscard (l : Link) (edit : Bool) (s : State) : Answer :=
  .next (State.takeRequest .discard l edit State.applyDiscard s)

/-! ### FREEZE (R69, R110, R134, R167) -/

/-- The freeze of the banks set or cleared; when it is turned off, the banks look (R69). -/
def State.freezeBanks (s : State) (on : Bool) : State :=
  let t := { s with frozen := { s.frozen with banks := on } }
  if s.frozen.banks && !on then t.bankLooks (fun _ => false) allBanks else t

/-- The freeze of the carriages set or cleared; when it is turned off, the arbiter looks (R110). -/
def State.freezeCarriages (s : State) (on : Bool) : State :=
  let t := { s with frozen := { s.frozen with carriages := on } }
  if s.frozen.carriages && !on then t.cutLook else t

/-- The freeze of the line set or cleared; when it is turned off, the arbiter looks (R134). -/
def State.freezeLine (s : State) (on : Bool) : State :=
  let t := { s with frozen := { s.frozen with line := on } }
  if s.frozen.line && !on then t.lineLook else t

/-- FREEZE of a class: 1 banks, 2 carriages, 3 line (R158, R167). -/
def State.applyFreeze (a : Asking) (s : State) : State :=
  match a.frame.byteAt 0, bitOf? (a.frame.byteAt 1) with
  | 1, some on => (s.done a).freezeBanks on
  | 2, some on => (s.done a).freezeCarriages on
  | 3, some on => (s.done a).freezeLine on
  | _, _ => s.refuse a .range

/-- FREEZE (R167). -/
def execFreeze (l : Link) (edit : Bool) (s : State) : Answer :=
  .next (State.takeRequest .freeze l edit State.applyFreeze s)

/-! ### CLEAR (R68, R112, R131, R168) -/

/-- The number of a CLEAR whose resource is `resource`; none for another resource or a number out of range (R168). -/
def Frame.clearNumber {α : Type} (f : Frame) (resource : Nat) (read : Nat → Option α) : Option α :=
  if f.byteAt 0 = resource then read (f.byteAt 1) else none

/-- CLEAR of a bank: a FAULTED bank with PROVED low primes one flush (R68). -/
def State.applyClearBank (a : Asking) (s : State) : State :=
  s.inRange a (a.frame.clearNumber 1 bankOf?) fun b =>
    if (s.bank b).state ≠ .faulted then s.refuse a .stage
    else if s.proved[b] then s.refuse a .faulted
    else (s.done a).enterPriming b

/-- CLEAR_BANK (R68). -/
def execClearBank (l : Link) (edit : Bool) (s : State) : Answer :=
  .next (State.takeRequest .clearBank l edit State.applyClearBank s)

/-- CLEAR of a carriage: a FAULTED carriage that holds no vat becomes FREE (R112). -/
def State.applyClearCarriage (a : Asking) (s : State) : State :=
  s.inRange a (a.frame.clearNumber 2 carriageOf?) fun c =>
    if (s.carriage c).state = .faulted ∧ (s.carriage c).vat = none then
      ((s.done a).modCarriage c fun k =>
        { k with state := .free, faultCause := none, missed := 0, freeSince := s.clock }).cutLook
    else s.refuse a .stage

/-- CLEAR_CARRIAGE (R112). -/
def execClearCarriage (l : Link) (edit : Bool) (s : State) : Answer :=
  .next (State.takeRequest .clearCarriage l edit State.applyClearCarriage s)

/-- CLEAR of the line: a FAULTED line that holds no lot becomes FREE; its number is 0 (R131, R168). -/
def State.applyClearLine (a : Asking) (s : State) : State :=
  s.inRange a (a.frame.clearNumber 3 fun n => if n = 0 then some () else none) fun _ =>
    if s.line.state = .faulted ∧ s.line.current = none then
      ((s.done a).modLine fun k => { k.freed s.clock with faultCause := none }).lineLook
    else s.refuse a .stage

/-- CLEAR_LINE (R131). -/
def execClearLine (l : Link) (edit : Bool) (s : State) : Answer :=
  .next (State.takeRequest .clearLine l edit State.applyClearLine s)

end Sys2Proof.Machine
end

