-- ==== Sys2Proof/Machine/CutRequests.lean ====
section
/-! DEFINITION. The meanings of the requests of the Cut link (R98, R99, R102, R105, R107, R108) and of the carriages' timers
(R101, R104). -/

namespace Sys2Proof.Machine

/-- An order tag as a request names it: 1 to 255; a tag of 0 is out of range (R98). -/
def tagOf? (x : Nat) : Option Nat := rangeOf? 1 255 x

/-- The answer to a tag that does not stand (R98). -/
def State.refuseTag (s : State) (a : Asking) (tag : Nat) : State :=
  s.refuse a (if tag ∈ s.lateTags then .late else .tag)

/-- A request that names an order tag, matched against the carriage records (R98): `rest` is given the carriage whose record
holds the tag. -/
def State.onTag (s : State) (a : Asking) (rest : Carriage → State) : State :=
  s.inRange a (tagOf? (a.frame.byteAt 0)) fun tag =>
    match s.standing? tag with
    | some c => rest c
    | none => s.refuseTag a tag

/-- The record of a vat changed, when a record names one. -/
def State.modVatOf (s : State) (v : Option Vat) (f : VatRecord → VatRecord) : State :=
  match v with
  | some v => s.modVat v f
  | none => s

/-! ### CUT STARTED (R35, R99) -/

/-- The record of a carriage whose cut starts (R99). -/
def CarriageRecord.started (k : CarriageRecord) (clock sliceLimit : Nat) : CarriageRecord :=
  { k with state := .cutting, startedAt := some clock, missed := 0, start := none, slice := some (.begin sliceLimit) }

/-- The cut of an ORDERED carriage starts, and its vat becomes CUTTING (R35, R99). -/
def State.startCut (s : State) (c : Carriage) : State :=
  (s.modCarriage c fun k => k.started s.clock s.settings.cutSliceLimit).modVatOf (s.carriage c).vat fun r =>
    { r with stage := .cutting }

/-- CUT STARTED (R98). -/
def State.applyCutStarted (a : Asking) (s : State) : State :=
  s.onTag a fun c => if (s.carriage c).state = .ordered then (s.done a).startCut c else s.refuse a .stage

/-- CUT_STARTED (R99). -/
def execCutStarted (l : Link) (edit : Bool) (s : State) : Answer :=
  .next (State.takeRequest .cutStarted l edit State.applyCutStarted s)

/-! ### CUT DONE (R36, R105) -/

/-- The record of a vat whose cut is done now (R2, R36). -/
def VatRecord.cutAt (r : VatRecord) (clock : Nat) : VatRecord :=
  { r with stage := .working, carriage := none, cutDone := some clock,
           healMin := r.snapshot.map fun t => after clock t.healMin,
           healMax := r.snapshot.map fun t => after clock t.healMax }

/-- The cut ends in a CUTTING or FAULTED carriage: the carriage record and the vat record (R36, R105). A CUTTING carriage
becomes FREE. -/
def State.endCut (s : State) (c : Carriage) : State :=
  let freed : CarriageRecord → CarriageRecord := fun k =>
    if k.state = .cutting then { k.released with state := .free, freeSince := s.clock } else k.released
  (s.modCarriage c freed).modVatOf (s.carriage c).vat fun r => r.cutAt s.clock

/-- The heal-min event of the vat of a cut, applied straight after its CUT DONE when it is due already (R36). -/
def State.healMinAfterCut (s : State) (v : Option Vat) : State :=
  match v with
  | some v => s.healMinAtOnce v
  | none => s

/-- CUT DONE (R98, R105): DONE in CUTTING, after which the arbiter looks since the carriage is FREE; DONE-LATE in FAULTED. -/
def State.applyCutDone (a : Asking) (s : State) : State :=
  s.onTag a fun c =>
    match (s.carriage c).state with
    | .cutting => (((s.done a).endCut c).cutLook).healMinAfterCut (s.carriage c).vat
    | .faulted => ((s.answer a .doneLate []).endCut c).healMinAfterCut (s.carriage c).vat
    | _ => s.refuse a .stage

/-- CUT_DONE (R105). -/
def execCutDone (l : Link) (edit : Bool) (s : State) : Answer :=
  .next (State.takeRequest .cutDone l edit State.applyCutDone s)

/-! ### CUT REFUSED (R102) -/

/-- CUT REFUSED: the order of an ORDERED carriage is withdrawn without a strike (R98, R102). -/
def State.applyCutRefused (a : Asking) (s : State) : State :=
  s.onTag a fun c =>
    if (s.carriage c).state = .ordered then ((s.done a).withdrawOrder c .refused).cutLook else s.refuse a .stage

/-- CUT_REFUSED (R102). -/
def execCutRefused (l : Link) (edit : Bool) (s : State) : Answer :=
  .next (State.takeRequest .cutRefused l edit State.applyCutRefused s)

/-! ### Blocks and the routine pause (R107, R108) -/

/-- CARRIAGE BLOCK: the mark is set, and the order of an ORDERED carriage is withdrawn (R107). -/
def State.applyBlock (a : Asking) (s : State) : State :=
  s.inRange a (carriageOf? (a.frame.byteAt 0)) fun c =>
    let t := (s.done a).modCarriage c fun k => { k with blocked := true }
    if (s.carriage c).state = .ordered then (t.withdrawOrder c .blocked).cutLook else t

/-- CARRIAGE_BLOCK (R107). -/
def execCarriageBlock (l : Link) (edit : Bool) (s : State) : Answer :=
  .next (State.takeRequest .carriageBlock l edit State.applyBlock s)

/-- CARRIAGE UNBLOCK: a set mark is cleared and the arbiter looks (R107); it changes nothing on a carriage not blocked. -/
def State.applyUnblock (a : Asking) (s : State) : State :=
  s.inRange a (carriageOf? (a.frame.byteAt 0)) fun c =>
    if (s.carriage c).blocked then ((s.done a).modCarriage c fun k => { k with blocked := false }).cutLook
    else s.done a

/-- CARRIAGE_UNBLOCK (R107). -/
def execCarriageUnblock (l : Link) (edit : Bool) (s : State) : Answer :=
  .next (State.takeRequest .carriageUnblock l edit State.applyUnblock s)

/-- ROUTINE_PAUSE (R108). -/
def execRoutinePause (l : Link) (edit : Bool) (s : State) : Answer :=
  .next (State.takeRequest .routinePause l edit (fun a t => { t.done a with routinePause := true }) s)

/-- ROUTINE RESUME: a set mark is cleared and the arbiter looks (R93, R108); with none set it makes no look (log 31). -/
def State.applyRoutineResume (a : Asking) (s : State) : State :=
  if s.routinePause then State.cutLook { s.done a with routinePause := false } else s.done a

/-- ROUTINE_RESUME (R108). -/
def execRoutineResume (l : Link) (edit : Bool) (s : State) : Answer :=
  .next (State.takeRequest .routineResume l edit State.applyRoutineResume s)

/-! ### The start timer (R101) -/

/-- Whether a carriage's start timer has expired in ORDERED. -/
def State.cutStartDue (s : State) (c : Carriage) : Bool :=
  decide ((s.carriage c).state = .ordered) && due (s.carriage c).start

/-- The start timer's expiry: a strike, and the order withdrawn; at the strikes setting the carriage faults (R101, R111). -/
def State.applyCutStartExpiry (s : State) (c : Carriage) : State :=
  match (s.carriage c).vat with
  | none => s
  | some v =>
    let faulted := decide (s.settings.strikes ≤ (s.carriage c).missed + 1)
    let t := (s.modCarriage c fun k => { k with missed := k.missed + 1 }).withdrawCut c v .startLimit faulted
    (if faulted then t.raiseCarriageFault c .strikes else t).cutLook

/-- CUT_START_TIMER_EXPIRY (R101). -/
def execCutStartTimerExpiry (c : Carriage) (s : State) : Answer :=
  .next (if !s.inReset && s.cutStartDue c then s.applyCutStartExpiry c else s)

/-! ### The slice timer (R104) -/

/-- Whether a carriage's slice timer has expired in CUTTING. -/
def State.sliceDue (s : State) (c : Carriage) : Bool :=
  decide ((s.carriage c).state = .cutting) && due (s.carriage c).slice

/-- The slice timer's expiry: the carriage faults and keeps its vat (R104, R111). -/
def State.applySliceExpiry (s : State) (c : Carriage) : State :=
  (s.modCarriage c fun k =>
    { k with state := .faulted, faultCause := some .slice, slice := none }).raiseCarriageFault c .slice

/-- SLICE_TIMER_EXPIRY (R104). -/
def execSliceTimerExpiry (c : Carriage) (s : State) : Answer :=
  .next (if !s.inReset && s.sliceDue c then s.applySliceExpiry c else s)

end Sys2Proof.Machine
end

