-- ==== Sys2Proof/Machine/FillRequests.lean ====
section
/-! DEFINITION. The meanings of STATUS and of the requests of the Fill link (R156), and of a request whose kind is not
defined (R155). -/

namespace Sys2Proof.Machine

/-- UNKNOWN_KIND_REQUEST: the first check answers it UNKNOWN (R155). -/
def execUnknownKindRequest (l : Link) (edit : Bool) (s : State) : Answer :=
  .next (State.takeRequest .unknownKindRequest l edit (fun a t => t.refuse a .unknown) s)

/-! ### STATUS (R152, R166) -/

/-- STATUS: the link's overrun and frame-error marks and the make clock; both marks are then turned off. -/
def State.applyStatus (a : Asking) (s : State) : State :=
  let u := s.link a.link
  (s.answer a .done [.mark u.overrun, .mark u.frameError, .time s.clock]).modLink a.link fun u =>
    { u with overrun := false, frameError := false }

/-- STATUS (R166). -/
def execStatus (l : Link) (edit : Bool) (s : State) : Answer :=
  .next (State.takeRequest .status l edit State.applyStatus s)

/-! ### FILL ORDER (R12, R23) -/

/-- The fields of a FILL ORDER, in the order of R156. -/
structure FillOrder where
  slot : Slot
  recipe : RecipeClass
  target : Nat
  batch : Nat
deriving DecidableEq, Repr

/-- A FILL ORDER as read from its frame; none when a field is out of range (R12, R156). -/
def Frame.fillOrder (f : Frame) : Option FillOrder :=
  match slotOf? (f.byteAt 0), classOf? (f.byteAt 1), rangeOf? 1000 30000 (f.pairAt 2) with
  | some slot, some recipe, some target => some ⟨slot, recipe, target, f.pairAt 4⟩
  | _, _, _ => none

/-- The record a FILL ORDER fills in (R12, R23). -/
def VatRecord.ordered (r : VatRecord) (o : FillOrder) (times : ClassTimes) : VatRecord :=
  { r with stage := .fillQueued, batch := some o.batch, recipe := some o.recipe, snapshot := some times,
           target := some o.target, filled := 0 }

/-- An accepted FILL ORDER: the reply names the vat and the bank, the record is filled in, and the FILL entry joins the
bank's list (R23, R160). -/
def State.acceptFill (s : State) (a : Asking) (o : FillOrder) (v : Vat) : State :=
  let b := s.bankOf v
  ((s.answer a .done [.vat v, .bank b]).modVat v fun r => r.ordered o s.settings.classes[o.recipe]).joinTransfer b
    { vat := v, kind := .fill, target := o.target, volume := 0, resumed := false }

/-- FILL ORDER, its checks in the order of R23. -/
def State.applyFillOrder (a : Asking) (s : State) : State :=
  s.inRange a a.frame.fillOrder fun o => s.resolved a o.slot fun v =>
    let r := s.vat v
    if r.service = .outOfUse then s.refuse a .service
    else if r.held then s.refuse a .held
    else if r.stage ≠ .vacant then s.refuse a .stage
    else s.acceptFill a o v

/-- FILL_ORDER (R23). -/
def execFillOrder (l : Link) (edit : Bool) (s : State) : Answer :=
  .next (State.takeRequest .fillOrder l edit State.applyFillOrder s)

/-! ### FILL CANCEL (R26, R62) -/

/-- A bank's list without the entry of a vat (R53). -/
def State.dropTransfer (s : State) (b : Bank) (v : Vat) : State :=
  s.modBank b fun k => { k with list := dropOne (fun e => decide (e.vat = v)) k.list }

/-- A cancel of a FILLING vat whose entry is listed: the entry is removed, and the vat is CHARGED or VACANT (R26, R62). -/
def State.cancelListed (s : State) (b : Bank) (v : Vat) : State := ((s.dropTransfer b v).endFill v).parkLook b

/-- A cancel of a current transfer: marked in OPENING-PATH, otherwise ended with the path left open (R26, R62). -/
def State.cancelCurrent (s : State) (b : Bank) (c : Current) : State :=
  if c.phase = .openingPath then s.modBank b fun k => { k with current := some { c with cancel := true } }
  else ((s.modBank b fun k => { k with current := none, noFlow := none }).endFill c.entry.vat).afterTransfer b

/-- A cancel of a FILL-QUEUED vat: its entry is removed and its record cleared (R26, R62). -/
def State.cancelQueued (s : State) (b : Bank) (v : Vat) : State := ((s.dropTransfer b v).clearVat v).parkLook b

/-- FILL CANCEL by the vat's stage and the place of its transfer (R26). -/
def State.applyFillCancel (a : Asking) (s : State) : State :=
  s.onSlot a fun v =>
    let b := s.bankOf v
    if (s.vat v).stage = .fillQueued then (s.done a).cancelQueued b v
    else if (s.vat v).stage = .filling then
      match (s.bank b).current with
      | some c => if c.entry.vat = v then (s.done a).cancelCurrent b c else (s.done a).cancelListed b v
      | none => (s.done a).cancelListed b v
    else s.refuse a .stage

/-- FILL_CANCEL (R26). -/
def execFillCancel (l : Link) (edit : Bool) (s : State) : Answer :=
  .next (State.takeRequest .fillCancel l edit State.applyFillCancel s)

/-! ### FILL RESUME (R27, R61) -/

/-- The STALLED transfer of a vat goes on (R61). -/
def State.resumeFill (s : State) (b : Bank) (c : Current) : State :=
  s.modBank b fun k =>
    { k with current := some { c with phase := .running }, noFlow := some (.begin s.settings.noFlowTime) }

/-- The answer of a vat's bank to FILL RESUME (R61). -/
def State.bankResume (s : State) (a : Asking) (v : Vat) : State :=
  let b := s.bankOf v
  if (s.bank b).state = .faulted then s.refuse a .faulted
  else match (s.bank b).current with
    | some c =>
      if c.entry.vat = v ∧ c.phase = .stalled then (s.done a).resumeFill b c else s.refuse a .stage
    | none => s.refuse a .stage

/-- FILL RESUME: the vat table's checks, and then the bank's (R27, R61). -/
def State.applyFillResume (a : Asking) (s : State) : State :=
  s.onSlot a fun v =>
    if s.isHeld v then s.refuse a .held
    else if (s.vat v).stage ≠ .filling then s.refuse a .stage
    else s.bankResume a v

/-- FILL_RESUME (R61). -/
def execFillResume (l : Link) (edit : Bool) (s : State) : Answer :=
  .next (State.takeRequest .fillResume l edit State.applyFillResume s)

/-! ### SET from the Fill station (R28) -/

/-- The record of a vat set now: cut-open and cut-close from its snapshot (R2, R28). -/
def VatRecord.setAt (r : VatRecord) (clock : Nat) : VatRecord :=
  { r with stage := .setting, setTime := some clock, cutOpen := r.snapshot.map fun t => after clock t.firmMin,
           cutClose := r.snapshot.map fun t => after clock t.firmMax }

/-- SET of a slot: only a CHARGED vat can be set (R28). -/
def State.applySetSlot (a : Asking) (s : State) : State :=
  s.onSlot a fun v =>
    if (s.vat v).stage ≠ .charged then s.refuse a .stage else (s.done a).modVat v fun r => r.setAt s.clock

/-- SET_SLOT (R28). -/
def execSetSlot (l : Link) (edit : Bool) (s : State) : Answer :=
  .next (State.takeRequest .setSlot l edit State.applySetSlot s)

/-! ### VAT QUERY (R19, R165) -/

/-- VAT QUERY: the report of the vat the slot names, with subject 1 and the vat as its number (R165). -/
def State.applyVatQuery (a : Asking) (s : State) : State :=
  s.onSlot a fun v => s.answer a .done ((s.vatReport v).data 1 (v.val + 1) (a.frame.byteAt 1))

/-- VAT_QUERY (R19). -/
def execVatQuery (l : Link) (edit : Bool) (s : State) : Answer :=
  .next (State.takeRequest .vatQuery l edit State.applyVatQuery s)

end Sys2Proof.Machine
end

