-- ==== Sys2Proof/Machine/Flags.lean ====
section
/-! DEFINITION. The marks of a link that its replies carry in their flags byte, and the sending of a message (R148, R149). -/

namespace Sys2Proof.Machine

/-- The flags byte: RESTARTED is bit 0 and NOTICE-LOSS bit 1, the other bits are 0 (R141). -/
def flagsByte (restarted noticeLoss : Bool) : Byte := Byte.ofNat (restarted.toNat + 2 * noticeLoss.toNat)

/-- The flags a message begins to be sent with: a reply's are its link's marks as they then stand, a notice's are 0
(R149). -/
def LinkUnit.flagsFor (u : LinkUnit) : Message → Byte
  | .reply .. => flagsByte u.restarted u.noticeLoss
  | .notice _ => 0

/-- The link's marks after a message has begun to be sent: a reply turns both off, a notice clears neither (R149). -/
def LinkUnit.clearMarksFor (u : LinkUnit) : Message → LinkUnit
  | .reply .. => { u with restarted := false, noticeLoss := false }
  | .notice _ => u

/-- The link unit after the message at the head of its queue has begun to be sent (R148); none when a frame is still being
sent or nothing waits. -/
def LinkUnit.beginSending (u : LinkUnit) : Option LinkUnit :=
  match u.sending, u.queue with
  | none, m :: rest => some { u.clearMarksFor m with queue := rest, sending := some ⟨m, u.flagsFor m⟩ }
  | _, _ => none

end Sys2Proof.Machine
end

