-- ==== Sys2Proof/Machine/LinkSteps.lean ====
section
/-! DEFINITION. The meanings of the commands of the links' lines: characters and frames received (R144 to R147), breaks
(R150), presence (R151), and frames sent (R148, R149, R153). While the part is held in reset none of them has an effect
(log 9). -/

namespace Sys2Proof.Machine

/-! ### The receive assembly (R142, R144) -/

/-- A frame just opened: good, with no bytes. -/
def OpenFrame.fresh : OpenFrame := ⟨[], false, false, false, false⟩

/-- An unescaped byte added; a 54th marks the frame bad and is not kept (R144). -/
def OpenFrame.push (f : OpenFrame) (b : Byte) : OpenFrame :=
  if f.bytes.length < Config.frameRoom then { f with bytes := f.bytes ++ [b] } else { f with bad := true }

/-- The byte an escape and the byte after it stand for (R142). -/
def unescaped (b : Byte) : Option Byte :=
  if b = 0x7A then some delimiter else if b = 0x7B then some escapeByte else none

/-- A byte other than the delimiter received in an open frame (R142, R144). -/
def OpenFrame.add (f : OpenFrame) (b : Byte) : OpenFrame :=
  let f := { f with received := true }
  if f.escape then
    match unescaped b with
    | some x => { f with escape := false }.push x
    | none => { f with escape := false, bad := true }
  else if b = escapeByte then { f with escape := true }
  else f.push b

/-! ### Checks (R145) -/

/-- The frame that unescaped bytes make, if they pass the checks of length, CRC and kind, in that order (R145). -/
def frameOf : List Byte → Option Frame
  | kind :: tag :: flags :: rest =>
    let payload := rest.take (rest.length - 2)
    if rest.length < 2 then none
    else if rest.drop (rest.length - 2) ≠ lowFirst 2 (crcOf (kind :: tag :: flags :: payload)).toNat then none
    else if kind.msb then none
    else some ⟨kind, tag, flags, payload⟩
  | _ => none

/-- The valid frame that a closed frame holds; none when it is bad, an escape cut short by the delimiter included, or fails
a check (R142, R144, R145). -/
def OpenFrame.valid (f : OpenFrame) : Option Frame := if f.bad || f.escape then none else frameOf f.bytes

/-- A valid frame joins the receive buffer, or is dropped and sets the overrun mark (R147). -/
def LinkUnit.offer (u : LinkUnit) (f : Frame) : LinkUnit :=
  if u.buffer.length < Config.receiveRoom then { u with buffer := u.buffer ++ [f] } else { u with overrun := true }

/-- An open frame is closed by its delimiter and checked: discarded with the frame-error mark, or heard and offered to the
buffer (R145, R147). -/
def State.closeFrame (s : State) (l : Link) (f : OpenFrame) : State :=
  match f.valid with
  | none => s.modLink l fun u => { u with assembly := none, frameError := true }
  | some frame => ((s.modLink l fun u => { u with assembly := none }).heard l).modLink l fun u => u.offer frame

/-- What a character does to the assembly of its link (R144). -/
def State.receive (s : State) (l : Link) (c : Character) : State :=
  match (s.link l).assembly, c with
  | none, .error => s
  | none, .byte b => if b = delimiter then s.modLink l fun u => { u with assembly := some .fresh } else s
  | some f, .error => s.modLink l fun u => { u with assembly := some { f with bad := true, gapEnded := true } }
  | some f, .byte b =>
    if b = delimiter then
      if f.received then s.closeFrame l f else s.modLink l fun u => { u with assembly := some .fresh }
    else s.modLink l fun u => { u with assembly := some (f.add b) }

/-- CHARACTER_RECEIVED (R144). During a break no character is received (log 10). -/
def execCharacterReceived (l : Link) (c : Character) (s : State) : Answer :=
  .next (if s.inReset || (s.link l).inBreak then s else s.receive l c)

/-- FRAME_CLOSED: the closing delimiter of an open frame with a byte received (R144, R145); there is no such event on any
other assembly. -/
def execFrameClosed (l : Link) (s : State) : Answer :=
  .next (match (s.link l).assembly with
    | some f => if s.inReset || !f.received then s else s.closeFrame l f
    | none => s)

/-- FRAME_ABANDONED: the gap after a character of an open frame has reached 32 bit times (R146). A frame with no byte yet,
and one whose gap timing a character error has ended, is not timed. -/
def execFrameAbandoned (l : Link) (s : State) : Answer :=
  .next (match (s.link l).assembly with
    | some f =>
      if s.inReset || !f.received || f.gapEnded then s
      else s.modLink l fun u => { u with assembly := none, frameError := true }
    | none => s)

/-! ### Breaks and presence (R150, R151) -/

/-- Whether an accepted RESTART waits for its reply to begin (R153, R170). -/
def State.restartUnsent (s : State) : Bool :=
  s.restartAccepted && !(s.link .console).sending.any fun f => f.message.isRestartReply

/-- A break is recognised on a link (R150): the open frame, the buffer and the queue are lost, the station becomes ABSENT,
and on the Console link a RESTART whose reply has not begun takes effect. -/
def State.breakLine (s : State) (l : Link) : State :=
  let t := (s.modLink l fun u => { u with assembly := none, buffer := [], queue := [], inBreak := true }).becomeAbsent l
    .lineBreak
  if l = .console ∧ s.restartUnsent then t.restartNow else t

/-- BREAK (R150). A break that goes on is one break. -/
def execLineBreak (l : Link) (s : State) : Answer :=
  .next (if s.inReset || (s.link l).inBreak then s else s.breakLine l)

/-- LINE_RETURNED_TO_MARK: the next break on the line is a new one (R150). -/
def execLineReturnedToMark (l : Link) (s : State) : Answer :=
  .next (if s.inReset then s else s.modLink l fun u => { u with inBreak := false })

/-- PRESENCE_TIMEOUT: the presence timer reaches the presence timeout as it stands (R151). -/
def execPresenceTimeout (l : Link) (s : State) : Answer :=
  .next (if !s.inReset && s.presenceDue l then s.becomeAbsent l .timeout else s)

/-! ### Sending (R148, R149, R153) -/

/-- The look at grant conditions of the arbiter that waits for room in a link's queue (R93, R118, R148). -/
def State.lookAtRoom (s : State) : Link → State
  | .fill => s
  | .cut => s.cutLook
  | .press => s.lineLook
  | .console => s

/-- FRAME_SEND_START: the message at the head of the queue leaves it as its frame begins (R148, R149). Nothing begins while
a frame is being sent or the queue is empty. -/
def execFrameSendStart (l : Link) (s : State) : Answer :=
  .next (match (s.link l).beginSending with
    | some u => if s.inReset then s else (s.setLink l u).lookAtRoom l
    | none => s)

/-- Whether the frame being sent on a link is the reply of an accepted RESTART (R153, R170, log 29). -/
def State.sendsRestartReply (s : State) (l : Link) : Bool :=
  s.restartAccepted && decide (l = .console) && (s.link l).sending.any fun f => f.message.isRestartReply

/-- FRAME_SENT: the frame being sent reaches its closing delimiter; after the reply of an accepted RESTART the restart takes
effect (R153, R170). -/
def execFrameSent (l : Link) (s : State) : Answer :=
  .next (if s.inReset then s
    else if s.sendsRestartReply l then s.restartNow
    else s.modLink l fun u => { u with sending := none })

end Sys2Proof.Machine
end

