-- ==== Sys2Proof/Machine/PressRequests.lean ====
section
/-! DEFINITION. The meanings of the requests of the Press link (R123 to R125, R128, R132, R133), of ABANDON LOT (R130), and
of the curd line's timers (R125, R127). -/

namespace Sys2Proof.Machine

/-- A lot number as a request names it: 1 to 4095 (R123). -/
def lotOf? (x : Nat) : Option Nat := rangeOf? 1 4095 x

/-- A request that names a lot, matched against the lot list: TAG when the list holds no lot of that number (R123, R130,
R132). -/
def State.onLot (s : State) (a : Asking) (field : Option Nat) (rest : Lot → State) : State :=
  s.inRange a field fun n =>
    match s.findLot n with
    | some x => rest x
    | none => s.refuse a .tag

/-- A lot of the lot list changed. -/
def State.modLot (s : State) (n : Nat) (f : Lot → Lot) : State :=
  { s with lots := s.lots.map fun x => if x.number = n then f x else x }

/-- A lot removed from the lot list (R122). -/
def State.removeLot (s : State) (n : Nat) : State := { s with lots := withoutLot s.lots n }

/-! ### DUMP STARTED (R42, R124) -/

/-- The dump of the ORDERED lot starts (R42, R124). -/
def State.startDump (s : State) (x : Lot) : State :=
  ((s.modLine fun k =>
      { k with state := .running, startedAt := some s.clock, start := none,
               duration := some (.begin s.settings.dumpDurationLimit) }).modLot x.number fun x =>
    { x with state := .running }).modVat x.vat fun r => { r with stage := .dumping }

/-- DUMP STARTED (R123). -/
def State.applyDumpStarted (a : Asking) (s : State) : State :=
  s.onLot a (lotOf? (a.frame.pairAt 0)) fun x =>
    match x.state, s.line.state with
    | .ordered, .ordered => (s.done a).startDump x
    | _, _ => s.refuse a .stage

/-- DUMP_STARTED (R124). -/
def execDumpStarted (l : Link) (edit : Bool) (s : State) : Answer :=
  .next (State.takeRequest .dumpStarted l edit State.applyDumpStarted s)

/-! ### DUMP DONE (R43, R128, R129, R135) -/

/-- The fields of a DUMP DONE. -/
structure DumpDone where
  lot : Nat
  received : Nat
deriving DecidableEq, Repr

/-- A DUMP DONE as read from its frame; none when a field is out of range (R123). -/
def Frame.dumpDone (f : Frame) : Option DumpDone :=
  match lotOf? (f.pairAt 0), rangeOf? 0 40000 (f.pairAt 2) with
  | some lot, some received => some ⟨lot, received⟩
  | _, _ => none

/-- The lot that enters PRESSING, its received volume recorded and checked (R128, R129). -/
def Lot.pressed (x : Lot) (tolerance received : Nat) : Lot :=
  { x with state := .pressing, received := some received, short := isShort tolerance x.expected received }

/-- SHORT LOT on the Console link for a lot outside the tolerance (R129). -/
def State.raiseShort (s : State) (x : Lot) (received : Nat) : State :=
  if isShort s.settings.volumeTolerance x.expected received then
    s.raise .console (.shortLot x.number x.vat x.slot x.batch x.kind x.expected received)
  else s

/-- What the end of a dump does to its lot: a WASTE lot leaves the list, another enters PRESSING and is checked (R128). -/
def State.finishLot (s : State) (x : Lot) (received : Nat) : State :=
  if x.kind = .waste then s.removeLot x.number
  else (s.modLot x.number fun y => y.pressed s.settings.volumeTolerance received).raiseShort x received

/-- The end of a dump (R43, R128, R135); a RUNNING line becomes FREE, and the arbiter then looks (R118). -/
def State.endDump (s : State) (x : Lot) (received : Nat) : State :=
  let t := s.modLine fun k => if k.state = .running then k.released.freed s.clock else k.released
  let t := t.finishLot x received
  let t := { t with window := joinWindow t.window ⟨x.number, x.early⟩ }
  (t.queueWash x.vat).lineLook

/-- DUMP DONE (R123, R128): DONE while the line is RUNNING, DONE-LATE while it is FAULTED. -/
def State.applyDumpDone (a : Asking) (s : State) : State :=
  s.inRange a a.frame.dumpDone fun d => s.onLot a (some d.lot) fun x =>
    match x.state, s.line.state with
    | .running, .running => (s.done a).endDump x d.received
    | .running, .faulted => (s.answer a .doneLate []).endDump x d.received
    | _, _ => s.refuse a .stage

/-- DUMP_DONE (R128). -/
def execDumpDone (l : Link) (edit : Bool) (s : State) : Answer :=
  .next (State.takeRequest .dumpDone l edit State.applyDumpDone s)

/-! ### DUMP REFUSED (R125) -/

/-- DUMP REFUSED: the order of the ORDERED lot is withdrawn, and the arbiter looks (R123, R125). -/
def State.applyDumpRefused (a : Asking) (s : State) : State :=
  s.onLot a (lotOf? (a.frame.pairAt 0)) fun x =>
    match x.state, s.line.state with
    | .ordered, .ordered => ((s.done a).withdrawDump x .refused).lineLook
    | _, _ => s.refuse a .stage

/-- DUMP_REFUSED (R125). -/
def execDumpRefused (l : Link) (edit : Bool) (s : State) : Answer :=
  .next (State.takeRequest .dumpRefused l edit State.applyDumpRefused s)

/-! ### LOT CLOSED (R132) and the moulds (R133) -/

/-- LOT CLOSED: a PRESSING lot leaves the list, and the arbiter looks (R118, R132). -/
def State.applyLotClosed (a : Asking) (s : State) : State :=
  s.onLot a (lotOf? (a.frame.pairAt 0)) fun x =>
    if x.state = .pressing then ((s.done a).removeLot x.number).lineLook else s.refuse a .stage

/-- LOT_CLOSED (R132). -/
def execLotClosed (l : Link) (edit : Bool) (s : State) : Answer :=
  .next (State.takeRequest .lotClosed l edit State.applyLotClosed s)

/-- MOULDS_LOW (R133). -/
def execMouldsLow (l : Link) (edit : Bool) (s : State) : Answer :=
  .next (State.takeRequest .mouldsLow l edit
    (fun a t => (t.done a).modLine fun k => { k with mouldsLow := true }) s)

/-- MOULDS READY: a set mark is cleared and the arbiter looks (R118, R133); with none set it makes no look (log 31). -/
def State.applyMouldsReady (a : Asking) (s : State) : State :=
  if s.line.mouldsLow then ((s.done a).modLine fun k => { k with mouldsLow := false }).lineLook else s.done a

/-- MOULDS_READY (R133). -/
def execMouldsReady (l : Link) (edit : Bool) (s : State) : Answer :=
  .next (State.takeRequest .mouldsReady l edit State.applyMouldsReady s)

/-! ### ABANDON LOT (R130) -/

/-- The current lot of a FAULTED line is abandoned: it leaves the list, the line stays FAULTED, and its vat is washed (R43,
R130). -/
def State.abandon (s : State) (x : Lot) : State :=
  (((s.removeLot x.number).modLine LineRecord.released).queueWash x.vat).lineLook

/-- ABANDON LOT (R130). -/
def State.applyAbandonLot (a : Asking) (s : State) : State :=
  s.onLot a (lotOf? (a.frame.pairAt 0)) fun x =>
    if s.line.state = .faulted ∧ s.line.current = some x.number ∧ x.state = .running then (s.done a).abandon x
    else s.refuse a .stage

/-- ABANDON_LOT (R130). -/
def execAbandonLot (l : Link) (edit : Bool) (s : State) : Answer :=
  .next (State.takeRequest .abandonLot l edit State.applyAbandonLot s)

/-! ### The start timer (R125) -/

/-- Whether the line's start timer has expired in ORDERED. -/
def State.dumpStartDue (s : State) : Bool := decide (s.line.state = .ordered) && due s.line.start

/-- The start timer's expiry: the order is withdrawn, and the arbiter looks (R125). -/
def State.applyDumpStartExpiry (s : State) : State :=
  match s.currentLot with
  | some x => (s.withdrawDump x .startLimit).lineLook
  | none => s

/-- DUMP_START_TIMER_EXPIRY (R125). -/
def execDumpStartTimerExpiry (s : State) : Answer :=
  .next (if !s.inReset && s.dumpStartDue then s.applyDumpStartExpiry else s)

/-! ### The duration timer (R127) -/

/-- Whether the line's duration timer has expired in RUNNING. -/
def State.dumpDurationDue (s : State) : Bool := decide (s.line.state = .running) && due s.line.duration

/-- The LINE FAULT of the line's current lot (R127). -/
def State.lineFaultNotice (s : State) : Notice :=
  let lot := s.currentLot
  .lineFault (s.line.current.getD 0) (lot.map Lot.vat) (lot.bind Lot.slot) (lot.map Lot.kind) s.line.startedAt .duration

/-- The duration timer's expiry: the line faults and keeps its lot (R127). -/
def State.applyDurationExpiry (s : State) : State :=
  (s.modLine fun k => { k with state := .faulted, faultCause := some .duration, duration := none }).raiseBoth .press
    .console s.lineFaultNotice

/-- DUMP_DURATION_EXPIRY (R127). -/
def execDumpDurationExpiry (s : State) : Answer :=
  .next (if !s.inReset && s.dumpDurationDue then s.applyDurationExpiry else s)

end Sys2Proof.Machine
end

