-- ==== Sys2Proof/Machine/ResetSteps.lean ====
section
/-! DEFINITION. The meanings of the commands of the reset pin and the supply (R171, R172). -/

namespace Sys2Proof.Machine

/-- POWER_ON_RESET: the supply has been within its rating for 10 ms. With RESETN high this is the release of the reset; with
RESETN low the part stays in reset until RESETN rises (R172). That the straps and the records stand at their start-up values
already in that wait, for which R172 gives none, is the model's choice (log 38); the release brings them again. -/
def execPowerOnReset (resetn rate1 rate0 : Bool) (proved : Vector Bool 4) (s : State) : Answer :=
  .next { s.fullReset ⟨rate1, rate0⟩ proved with inReset := !resetn }

/-- RESETN_ASSERTED: RESETN has been low for 1 ms (R172). Already in reset, the part stays so. -/
def execResetnAsserted (s : State) : Answer := .next (if s.inReset then s else s.holdReset)

/-- RESET_RELEASE: the rising edge of RESETN that ends the reset (R140, R171, R172). Out of reset no such edge comes about
(log 9). -/
def execResetRelease (rate1 rate0 : Bool) (s : State) : Answer :=
  .next (if s.inReset then s.fullReset ⟨rate1, rate0⟩ s.proved else s)

end Sys2Proof.Machine
end

