-- ==== Sys2Proof/Machine/Timebase.lean ====
section
/-! DEFINITION. The tick of the make clock (R173), and what the part does by itself when no command waits: an expiry or a
deadline that is due, the taking of a request, the beginning or the end of a sent frame, or, when nothing is due, the tick
(log 2). -/

namespace Sys2Proof.Machine

/-! ### The tick (R173) -/

/-- A bank's timers and counters one second later; its rinse counter only when it runs (R77). -/
def BankRecord.tick (k : BankRecord) (rinseCounts : Bool) : BankRecord :=
  { k with travel := k.travel.map Timer.tick, drain := k.drain.map Timer.tick, pathOpen := k.pathOpen.map (· + 1),
           noFlow := k.noFlow.map Timer.tick, flush := k.flush.map Timer.tick, rinse := k.rinse.map Timer.tick,
           rinseCount := if rinseCounts then k.rinseCount + 1 else k.rinseCount, park := k.park.map (· + 1),
           parkPulse := k.parkPulse.map Timer.tick }

/-- A carriage's timers one second later. -/
def CarriageRecord.tick (k : CarriageRecord) : CarriageRecord :=
  { k with start := k.start.map Timer.tick, slice := k.slice.map Timer.tick }

/-- The line's timers one second later. -/
def LineRecord.tick (k : LineRecord) : LineRecord :=
  { k with start := k.start.map Timer.tick, duration := k.duration.map Timer.tick }

/-- A link's presence timer one second later; it runs while its station is PRESENT (R151). -/
def LinkUnit.tick (u : LinkUnit) : LinkUnit := { u with presence := u.presence.map (· + 1) }

/-- One tick: the make clock adds one, and so does every timer and counter that runs (R173). -/
def State.tick (s : State) : State :=
  { s with
    clock := after s.clock 1,
    banks := Vector.ofFn fun b => (s.bank b).tick (s.rinseCounts b),
    carriages := Vector.ofFn fun c => (s.carriage c).tick,
    line := s.line.tick,
    links := ⟨s.links.fill.tick, s.links.cut.tick, s.links.press.tick, s.links.console.tick⟩ }

/-! ### What is due -/

/-- An event in the list when it can come about. -/
def eventIf (can : Bool) (i : Instr) : List Instr := if can then [i] else []

/-- The deadline events that are due on a vat. -/
def State.vatEvents (s : State) (v : Vat) : List Instr :=
  eventIf (s.cutOpenDue v) (.cutOpenReached v) ++ eventIf (s.urgencyDue v) (.urgencyMoment v) ++
    eventIf (s.cutCloseDue v) (.cutCloseReached v) ++ eventIf (s.healMinDue v) (.healMinReached v) ++
    eventIf (s.healMaxDue v) (.healMaxReached v)

/-- The expiries that are due on a bank. -/
def State.bankEvents (s : State) (b : Bank) : List Instr :=
  eventIf (s.travelDue b) (.travelTimerExpiry b) ++ eventIf (s.drainDue b) (.drainTimerExpiry b) ++
    eventIf (s.pathLimitDue b) (.pathOpenLimit b) ++ eventIf (s.noFlowDue b) (.noFlowTimerExpiry b) ++
    eventIf (s.flushDue b) (.flushTimerExpiry b) ++ eventIf (s.rinseMatchDue b) (.rinseCounterMatch b) ++
    eventIf (s.rinseDue b) (.rinseTimerExpiry b) ++ eventIf (s.parkDue b) (.parkTimerExpiry b) ++
    eventIf (s.parkPulseDue b) (.parkDrainEnd b)

/-- The expiries that are due on a carriage. -/
def State.carriageEvents (s : State) (c : Carriage) : List Instr :=
  eventIf (s.cutStartDue c) (.cutStartTimerExpiry c) ++ eventIf (s.sliceDue c) (.sliceTimerExpiry c)

/-- The expiries that are due on the curd line. -/
def State.lineEvents (s : State) : List Instr :=
  eventIf s.dumpStartDue .dumpStartTimerExpiry ++ eventIf s.dumpDurationDue .dumpDurationExpiry

/-- The presence timeout that is due on a link. -/
def State.presenceEvents (s : State) (l : Link) : List Instr := eventIf (s.presenceDue l) (.presenceTimeout l)

/-- Everything that is due in this second. -/
def State.dueEvents (s : State) : List Instr :=
  allVats.flatMap s.vatEvents ++ allBanks.flatMap s.bankEvents ++ allCarriages.flatMap s.carriageEvents ++ s.lineEvents ++
    allLinks.flatMap s.presenceEvents

/-! ### What the part can do at any moment -/

/-- The taking of the request at the head of a link's buffer, when it can be taken (R147); the level of EDIT is free
(log 5). -/
def State.takingOf (s : State) (l : Link) : List Instr :=
  match s.takable l with
  | some f => [.ofRequest l (Config.editLevel s.drawn) f.request]
  | none => []

/-- The beginning or the end of a sent frame on a link (R148). -/
def State.sendingOf (s : State) (l : Link) : List Instr :=
  eventIf (s.link l).beginSending.isSome (.frameSendStart l) ++ eventIf (s.link l).sending.isSome (.frameSent l)

/-- The requests that can be taken and the frames that can begin or end. -/
def State.ownEvents (s : State) : List Instr := allLinks.flatMap s.takingOf ++ allLinks.flatMap s.sendingOf

/-! ### The step with no command waiting (log 2) -/

/-- A step the part makes by itself: an event of its own, or the tick. -/
inductive Move
  | event (i : Instr)
  | tick
deriving DecidableEq, Repr

/-- The steps the part can make by itself: what is due and what it can do, and the tick when nothing is due. Held in reset
it makes none (R172). -/
def State.moves (s : State) : List Move :=
  if s.inReset then []
  else (s.dueEvents ++ s.ownEvents).map Move.event ++ (if s.dueEvents.isEmpty then [.tick] else [])

/-- The step made, free among those that can be, and none in reset (log 2). -/
def State.chosenMove (s : State) : Option Move :=
  if s.moves.length ≤ 1 then s.moves.head? else s.moves[Config.choice s.drawn % s.moves.length]?

/-- The state after the choice: the free counter advances when there was one to make. -/
def State.afterChoice (s : State) : State := if s.moves.length ≤ 1 then s else { s with drawn := s.drawn + 1 }

end Sys2Proof.Machine
end

