-- ==== Sys2Proof/Machine/Dispatch.lean ====
section
/-! DEFINITION. One arm for each command: the meaning of every row of spec/opcode_table.json. -/

namespace Sys2Proof.Machine

def exec (i : Instr) (s : State) : Host.Outcome State Fault Refusal :=
  match i with
  | .powerOnReset resetn rate1 rate0 proved => Sys2Proof.Machine.execPowerOnReset resetn rate1 rate0 proved s
  | .resetnAsserted => Sys2Proof.Machine.execResetnAsserted s
  | .resetRelease rate1 rate0 => Sys2Proof.Machine.execResetRelease rate1 rate0 s
  | .frameClosed link => Sys2Proof.Machine.execFrameClosed link s
  | .frameAbandoned link => Sys2Proof.Machine.execFrameAbandoned link s
  | .lineBreak link => Sys2Proof.Machine.execLineBreak link s
  | .presenceTimeout link => Sys2Proof.Machine.execPresenceTimeout link s
  | .frameSendStart link => Sys2Proof.Machine.execFrameSendStart link s
  | .frameSent link => Sys2Proof.Machine.execFrameSent link s
  | .unknownKindRequest link edit => Sys2Proof.Machine.execUnknownKindRequest link edit s
  | .status link edit => Sys2Proof.Machine.execStatus link edit s
  | .fillOrder link edit => Sys2Proof.Machine.execFillOrder link edit s
  | .fillCancel link edit => Sys2Proof.Machine.execFillCancel link edit s
  | .fillResume link edit => Sys2Proof.Machine.execFillResume link edit s
  | .setSlot link edit => Sys2Proof.Machine.execSetSlot link edit s
  | .vatQuery link edit => Sys2Proof.Machine.execVatQuery link edit s
  | .cutStarted link edit => Sys2Proof.Machine.execCutStarted link edit s
  | .cutDone link edit => Sys2Proof.Machine.execCutDone link edit s
  | .cutRefused link edit => Sys2Proof.Machine.execCutRefused link edit s
  | .carriageBlock link edit => Sys2Proof.Machine.execCarriageBlock link edit s
  | .carriageUnblock link edit => Sys2Proof.Machine.execCarriageUnblock link edit s
  | .routinePause link edit => Sys2Proof.Machine.execRoutinePause link edit s
  | .routineResume link edit => Sys2Proof.Machine.execRoutineResume link edit s
  | .dumpStarted link edit => Sys2Proof.Machine.execDumpStarted link edit s
  | .dumpDone link edit => Sys2Proof.Machine.execDumpDone link edit s
  | .dumpRefused link edit => Sys2Proof.Machine.execDumpRefused link edit s
  | .lotClosed link edit => Sys2Proof.Machine.execLotClosed link edit s
  | .mouldsLow link edit => Sys2Proof.Machine.execMouldsLow link edit s
  | .mouldsReady link edit => Sys2Proof.Machine.execMouldsReady link edit s
  | .queryVat link edit => Sys2Proof.Machine.execQueryVat link edit s
  | .queryBank link edit => Sys2Proof.Machine.execQueryBank link edit s
  | .queryCarriage link edit => Sys2Proof.Machine.execQueryCarriage link edit s
  | .queryCutLists link edit => Sys2Proof.Machine.execQueryCutLists link edit s
  | .queryLine link edit => Sys2Proof.Machine.execQueryLine link edit s
  | .queryLotList link edit => Sys2Proof.Machine.execQueryLotList link edit s
  | .queryDumpLists link edit => Sys2Proof.Machine.execQueryDumpLists link edit s
  | .queryEarlyWindow link edit => Sys2Proof.Machine.execQueryEarlyWindow link edit s
  | .get link edit => Sys2Proof.Machine.execGet link edit s
  | .hold link edit => Sys2Proof.Machine.execHold link edit s
  | .release link edit => Sys2Proof.Machine.execRelease link edit s
  | .stepMode link edit => Sys2Proof.Machine.execStepMode link edit s
  | .step link edit => Sys2Proof.Machine.execStep link edit s
  | .dumpEarly link edit => Sys2Proof.Machine.execDumpEarly link edit s
  | .releaseOverset link edit => Sys2Proof.Machine.execReleaseOverset link edit s
  | .discard link edit => Sys2Proof.Machine.execDiscard link edit s
  | .abandonLot link edit => Sys2Proof.Machine.execAbandonLot link edit s
  | .freeze link edit => Sys2Proof.Machine.execFreeze link edit s
  | .clearBank link edit => Sys2Proof.Machine.execClearBank link edit s
  | .clearCarriage link edit => Sys2Proof.Machine.execClearCarriage link edit s
  | .clearLine link edit => Sys2Proof.Machine.execClearLine link edit s
  | .set link edit => Sys2Proof.Machine.execSet link edit s
  | .mapSlot link edit => Sys2Proof.Machine.execMapSlot link edit s
  | .unmapSlot link edit => Sys2Proof.Machine.execUnmapSlot link edit s
  | .service link edit => Sys2Proof.Machine.execService link edit s
  | .declare link edit => Sys2Proof.Machine.execDeclare link edit s
  | .restart link edit => Sys2Proof.Machine.execRestart link edit s
  | .cutOpenReached vat => Sys2Proof.Machine.execCutOpenReached vat s
  | .urgencyMoment vat => Sys2Proof.Machine.execUrgencyMoment vat s
  | .cutCloseReached vat => Sys2Proof.Machine.execCutCloseReached vat s
  | .healMinReached vat => Sys2Proof.Machine.execHealMinReached vat s
  | .healMaxReached vat => Sys2Proof.Machine.execHealMaxReached vat s
  | .provedRise bank => Sys2Proof.Machine.execProvedRise bank s
  | .provedFall bank => Sys2Proof.Machine.execProvedFall bank s
  | .flowPulse bank => Sys2Proof.Machine.execFlowPulse bank s
  | .travelTimerExpiry bank => Sys2Proof.Machine.execTravelTimerExpiry bank s
  | .drainTimerExpiry bank => Sys2Proof.Machine.execDrainTimerExpiry bank s
  | .pathOpenLimit bank => Sys2Proof.Machine.execPathOpenLimit bank s
  | .noFlowTimerExpiry bank => Sys2Proof.Machine.execNoFlowTimerExpiry bank s
  | .flushTimerExpiry bank => Sys2Proof.Machine.execFlushTimerExpiry bank s
  | .rinseCounterMatch bank => Sys2Proof.Machine.execRinseCounterMatch bank s
  | .rinseTimerExpiry bank => Sys2Proof.Machine.execRinseTimerExpiry bank s
  | .parkTimerExpiry bank => Sys2Proof.Machine.execParkTimerExpiry bank s
  | .parkDrainEnd bank => Sys2Proof.Machine.execParkDrainEnd bank s
  | .cutStartTimerExpiry carriage => Sys2Proof.Machine.execCutStartTimerExpiry carriage s
  | .sliceTimerExpiry carriage => Sys2Proof.Machine.execSliceTimerExpiry carriage s
  | .dumpStartTimerExpiry => Sys2Proof.Machine.execDumpStartTimerExpiry s
  | .dumpDurationExpiry => Sys2Proof.Machine.execDumpDurationExpiry s
  | .characterReceived link c => Sys2Proof.Machine.execCharacterReceived link c s
  | .lineReturnedToMark link => Sys2Proof.Machine.execLineReturnedToMark link s

end Sys2Proof.Machine
end

