-- ==== Sys2Proof/Machine/Step.lean ====
section
/-! DEFINITION. One step of the machine: the command at the front of the queue, or, when none waits, a step the part makes by
itself (log 1, 2). -/

namespace Sys2Proof.Machine

/-- The step of the part when no command waits: the event chosen among those that can come about, or the tick; held in reset
it idles (log 2). -/
def State.ownStep (s : State) : Host.Outcome State Fault Refusal :=
  match s.chosenMove with
  | some (.event i) => exec i s.afterChoice
  | some .tick => .next s.afterChoice.tick
  | none => .next s

/-- One step: the command at the front of the queue is taken and applied; with an empty queue the part goes on by itself. -/
def step (s : State) : Host.Outcome State Fault Refusal :=
  match s.pending with
  | c :: rest => exec c { s with pending := rest }
  | [] => s.ownStep

/-- `s` with the command a word spells put at the front of its queue; no word spells one. -/
def State.withFetchWord (s : State) (nbits w : Nat) : State :=
  match decodeTableWord nbits w with
  | some c => { s with pending := c :: s.pending }
  | none => s

end Sys2Proof.Machine
end

