-- ==== Sys2Proof/Safety.lean ====
section
/-! DEFINITION. The properties of a state that every step is to keep, and the words the statements about requests use. -/

namespace Sys2Proof.Machine

/-! ### The settings store (R11, R49, R70, R86, R90, R113, R137, R151, R162, R164) -/

/-- Every item of the store holds a value that lies in its range and keeps the orderings with the other items. -/
def SettingsHold (s : State) : Prop := ∀ i : Item, s.settings.allows i (s.settings.get i) = true

/-! ### Links, lots and the early window (R119, R122, R135, R147, R148) -/

/-- No transmit queue holds more than 16 messages, and no receive buffer more than 2 frames. -/
def LinksHold (s : State) : Prop :=
  ∀ l : Link, (s.link l).queue.length ≤ Config.transmitRoom ∧ (s.link l).buffer.length ≤ Config.receiveRoom

/-- The lot list holds at most 12 lots, and the early window at most 8 completed dumps. -/
def LotsHold (s : State) : Prop := s.lots.length ≤ Config.lotRoom ∧ s.window.length ≤ Config.windowRoom

/-! ### The slot map (R5) -/

/-- The slot field of a vat names a slot exactly when that slot's entry names the vat. -/
def SlotsAgree (s : State) : Prop := ∀ (v : Vat) (n : Slot), (s.vat v).slot = some n ↔ s.slotMap[n] = some v

/-! ### The bank records (R50, R52, R53, R73) -/

/-- Whether a bank drives or has driven a path: OPENING, OPEN, and CLOSING until PROVED is seen low (R52). -/
def BankRecord.onPath (k : BankRecord) : Prop :=
  k.state = .opening ∨ k.state = .opened ∨ (k.state = .closing ∧ k.closePhase = some .travel)

/-- Whether the no-flow timer runs: a RUNNING transfer, or a STALLED wash (R50, R60). -/
def Current.watched (c : Current) : Prop := c.phase = .running ∨ (c.phase = .stalled ∧ c.entry.kind = .wash)

/-- Every field of a bank record is present exactly where R50, R52 and R73 say so, and a transfer runs only along the open
path to its own vat. -/
structure BankRecord.Sound (k : BankRecord) : Prop where
  path : k.path.isSome ↔ k.onPath
  idle : k.current.isSome → k.state = .opening ∨ k.state = .opened
  opening : k.state = .opening → ∃ c, k.current = some c ∧ c.phase = .openingPath ∧ k.path = some c.entry.vat
  opened : k.state = .opened → ∀ c, k.current = some c →
    c.phase ≠ .openingPath ∧ c.cancel = false ∧ k.path = some c.entry.vat
  closeCause : k.closeCause.isSome ↔ k.state = .closing
  closePhase : k.closePhase.isSome ↔ k.state = .closing
  travel : k.travel.isSome ↔
    k.state = .opening ∨ (k.state = .closing ∧ k.closePhase = some .travel) ∨ k.startPhase = some .prove
  drain : k.drain.isSome ↔ k.state = .closing ∧ k.closePhase = some .drain
  pathOpen : k.pathOpen.isSome ↔ k.state = .opened
  noFlow : k.noFlow.isSome ↔ ∃ c, k.current = some c ∧ c.watched
  faultCause : k.faultCause.isSome ↔ k.state = .faulted
  startPhase : k.startPhase.isSome ↔ k.state = .start
  flushesDone : k.flushesDone.isSome ↔ k.state = .start
  flush : k.flush.isSome ↔ k.startPhase = some .flush ∨ k.state = .priming
  rinse : k.rinse.isSome ↔ k.state = .rinsing
  park : k.park.isSome → k.state = .ready
  parkDrain : k.parkDrain.isSome ↔ k.state = .parked
  parkPulse : k.parkPulse.isSome ↔ k.parkDrain = some true

/-- Every bank record is sound. -/
def BanksHold (s : State) : Prop := ∀ b : Bank, (s.bank b).Sound

/-! ### The carriage records and the order tags (R89, R97) -/

/-- Every field of a carriage record is present exactly where R89 says so; a tag is 1 to 255, and the missed starts are at
most 7, or 8 in FAULTED. -/
structure CarriageRecord.Sound (k : CarriageRecord) : Prop where
  holds : k.vat.isSome ↔ k.tag.isSome
  since : k.orderedAt.isSome ↔ k.vat.isSome
  free : k.state = .free → k.vat = none
  ordered : k.state = .ordered → k.vat.isSome
  cutting : k.state = .cutting → k.vat.isSome
  faulted : k.state = .faulted → k.vat.isSome → k.faultCause = some .slice
  started : k.startedAt.isSome ↔ k.state = .cutting ∨ (k.state = .faulted ∧ k.vat.isSome)
  cause : k.faultCause.isSome ↔ k.state = .faulted
  start : k.start.isSome ↔ k.state = .ordered
  slice : k.slice.isSome ↔ k.state = .cutting
  tagRange : ∀ t, k.tag = some t → 1 ≤ t ∧ t ≤ 255
  missed : k.missed ≤ if k.state = .faulted then 8 else 7

/-- Both carriage records are sound, the strikes setting is at most 8, and the order tag counter stands in its range. -/
def CarriagesHold (s : State) : Prop :=
  (∀ c : Carriage, (s.carriage c).Sound) ∧ s.settings.strikes ≤ 8 ∧ 1 ≤ s.tagCounter ∧ s.tagCounter ≤ 255

/-- The late-tag set holds each tag at most once, only tags 1 to 255 and none that stands; and no two carriages hold one tag
(R97). -/
def LateTagsHold (s : State) : Prop :=
  s.lateTags.Nodup ∧ (∀ t ∈ s.lateTags, 1 ≤ t ∧ t ≤ 255 ∧ s.standing? t = none) ∧
  ∀ c c' : Carriage, c ≠ c' → ∀ t, (s.carriage c).tag = some t → (s.carriage c').tag ≠ some t

/-! ### The curd line record (R116) -/

/-- Every field of the line record is present exactly where R116 says so, and the lot counter stands in its range. -/
structure LineRecord.Sound (k : LineRecord) : Prop where
  free : k.state = .free → k.current = none
  ordered : k.state = .ordered → k.current.isSome
  running : k.state = .running → k.current.isSome
  since : k.orderedAt.isSome ↔ k.current.isSome
  started : k.startedAt.isSome ↔ k.state = .running ∨ (k.state = .faulted ∧ k.current.isSome)
  cause : k.faultCause.isSome ↔ k.state = .faulted
  start : k.start.isSome ↔ k.state = .ordered
  duration : k.duration.isSome ↔ k.state = .running
  lotRange : 1 ≤ k.lotCounter ∧ k.lotCounter ≤ 4095

/-- The line record is sound. -/
def LineHolds (s : State) : Prop := s.line.Sound

/-! ### The lot list (R121, R122, R123) -/

/-- No two lots have one number, a lot that is not PRESSING is the line's current lot, and the current lot is in the list in
the state the line's state gives it. -/
structure LotListHolds (s : State) : Prop where
  numbers : (s.lots.map Lot.number).Nodup
  current : ∀ x ∈ s.lots, x.state ≠ .pressing → s.line.current = some x.number
  listed : ∀ n, s.line.current = some n → ∃ x, s.findLot n = some x ∧
    (s.line.state = .ordered → x.state = .ordered) ∧ (s.line.state ≠ .ordered → x.state = .running)

/-! ### Where a vat is named (R21) -/

/-- A place in which a vat can be named among the resource claims (R21). -/
inductive Place
  | bankList (b : Bank) (kind : TransferKind)
  | bankTransfer (b : Bank) (kind : TransferKind)
  | cutList
  | carriage (c : Carriage)
  | dumpList
  | line
deriving DecidableEq, Repr

/-- Every place that names a vat, as often as it does (R21). -/
def State.places (s : State) (v : Vat) : List Place :=
  (allBanks.flatMap fun b =>
    ((s.bank b).list.filter fun e => decide (e.vat = v)).map fun e => Place.bankList b e.kind) ++
  (allBanks.flatMap fun b =>
    ((s.bank b).current.toList.filter fun c => decide (c.entry.vat = v)).map fun c => Place.bankTransfer b c.entry.kind) ++
  ((s.urgent ++ s.openList).filter fun e => decide (e.vat = v)).map (fun _ => Place.cutList) ++
  (allCarriages.filter fun c => decide ((s.carriage c).vat = some v)).map Place.carriage ++
  ((s.lateList ++ s.routine).filter fun e => decide (e.vat = v)).map (fun _ => Place.dumpList) ++
  (s.currentLot.toList.filter fun x => decide (x.vat = v)).map fun _ => Place.line

/-- The one place of a vat that is in its bank's hands (R21). -/
def State.inBank (s : State) (v : Vat) (kind : TransferKind) : Prop :=
  s.places v = [.bankList (s.bankOf v) kind] ∨ s.places v = [.bankTransfer (s.bankOf v) kind]

/-- A vat is named in the one place that its stage gives it, or in none, and its carriage and lot fields agree (R1, R21). -/
def State.claimed (s : State) (v : Vat) : Prop :=
  let r := s.vat v
  match r.stage with
  | .vacant => s.places v = [] ∧ r.carriage = none ∧ r.lot = none
  | .charged => s.places v = [] ∧ r.carriage = none ∧ r.lot = none
  | .setting => s.places v = [] ∧ r.carriage = none ∧ r.lot = none
  | .working => s.places v = [] ∧ r.carriage = none ∧ r.lot = none
  | .overset => s.places v = [] ∧ r.carriage = none ∧ r.lot = none
  | .fillQueued => s.places v = [.bankList (s.bankOf v) .fill] ∧ r.carriage = none ∧ r.lot = none
  | .filling => s.inBank v .fill ∧ r.carriage = none ∧ r.lot = none
  | .washing => s.inBank v .wash ∧ r.carriage = none ∧ r.lot = none
  | .cutWindow => r.lot = none ∧
    ((s.places v = [.cutList] ∧ r.carriage = none) ∨
      ∃ c, s.places v = [.carriage c] ∧ r.carriage = some c ∧ (s.carriage c).state = .ordered)
  | .cutting => r.lot = none ∧
    ∃ c, s.places v = [.carriage c] ∧ r.carriage = some c ∧ (s.carriage c).state ≠ .ordered
  | .dumpQueued => r.carriage = none ∧
    ((s.places v = [.dumpList] ∧ r.lot = none) ∨
      (s.places v = [.line] ∧ r.lot = s.line.current ∧ s.line.state = .ordered))
  | .dumping => r.carriage = none ∧ s.places v = [.line] ∧ r.lot = s.line.current ∧ s.line.state ≠ .ordered

/-- Every vat is named as R21 says. -/
def ClaimsHold (s : State) : Prop := ∀ v : Vat, s.claimed v

/-- Only a fill carries the cancel mark (R26, R62). -/
def CancelsHold (s : State) : Prop :=
  ∀ (b : Bank) (c : Current), (s.bank b).current = some c → c.cancel = true → c.entry.kind = .fill

/-- The claims, and the records of the banks, the carriages, the line and the lots, which between them say where every vat is
named. -/
def RoomHolds (s : State) : Prop :=
  ClaimsHold s ∧ LotListHolds s ∧ LotsHold s ∧ BanksHold s ∧ CarriagesHold s ∧ LateTagsHold s ∧ LineHolds s ∧
  CancelsHold s

/-! ### The vat records (R1) -/

/-- Every field of a vat record is present exactly where R1 says so; a vat that is OUT is VACANT (R9), a VACANT one is as a
clear leaves it but for hold and step mode, and step pending stands only in its stage under step mode (R15). -/
structure VatRecord.Sound (r : VatRecord) : Prop where
  service : r.service = .outOfUse → r.stage = .vacant
  slot : r.stage ≠ .vacant → r.slot.isSome
  batch : r.batch.isSome ↔ r.stage ≠ .vacant
  recipe : r.recipe.isSome ↔ r.stage ≠ .vacant
  snapshot : r.snapshot.isSome ↔ r.stage ≠ .vacant
  target : r.target.isSome ↔ r.stage ≠ .vacant
  vacant : r.stage = .vacant → r = { r.cleared with held := r.held, stepMode := r.stepMode }
  cutOpen : r.cutOpen.isSome ↔ r.setTime.isSome
  cutClose : r.cutClose.isSome → r.setTime.isSome
  coagulating : r.stage = .setting ∨ r.stage = .overset → r.cutClose.isSome
  cut : r.stage = .cutWindow ∨ r.stage = .cutting → r.setTime.isSome
  working : r.stage = .working → r.cutDone.isSome
  healMin : r.healMin.isSome ↔ r.cutDone.isSome
  healMax : r.healMax.isSome ↔ r.cutDone.isSome
  cutOpenPending : r.stepPending = .cutOpen → r.stage = .setting ∧ r.stepMode = true
  healMinPending : r.stepPending = .healMin → r.stage = .working ∧ r.stepMode = true
  marks : r.early = true ∨ r.waste = true → r.stage = .dumpQueued ∨ r.stage = .dumping ∨ r.stage = .washing

/-- Every vat record is sound. -/
def VatsHold (s : State) : Prop := ∀ v : Vat, (s.vat v).Sound

/-! ### Requests -/

/-- The request handler takes the frame `f` of row `r` from link `l` with the EDIT line at `edit`, and the frame passes the
checks of kind, size, role and permit (R154, R155). -/
abbrev Asks (s : State) (l : Link) (edit : Bool) (r : Request) (f : Frame) : Prop :=
  s.takable l = some f ∧ f.request = r ∧ firstChecks r ⟨l, f⟩ edit = none

/-- Check 5 of R155: whether every field of a request lies in the range R156 to R159 give it; a SET's value is checked against
its item and the orderings with the store as it stands (R164). -/
def fieldsInRange (t : Settings) (r : Request) (f : Frame) : Bool :=
  let slot := within 1 32 (f.byteAt 0)
  let vat := within 1 24 (f.byteAt 0)
  let lot := within 1 4095 (f.pairAt 0)
  match r with
  | .unknownKindRequest | .status | .routinePause | .routineResume | .mouldsLow | .mouldsReady | .restart => true
  | .fillOrder => slot && within 0 7 (f.byteAt 1) && within 1000 30000 (f.pairAt 2)
  | .fillCancel | .fillResume | .setSlot | .vatQuery | .dumpEarly | .releaseOverset | .discard | .unmapSlot => slot
  | .cutStarted | .cutDone | .cutRefused => within 1 255 (f.byteAt 0)
  | .carriageBlock | .carriageUnblock => within 1 2 (f.byteAt 0)
  | .dumpStarted | .dumpRefused | .lotClosed | .abandonLot => lot
  | .dumpDone => lot && within 0 40000 (f.pairAt 2)
  | .queryVat => decide (f.byteAt 0 = 1) && within 1 24 (f.byteAt 1)
  | .queryBank => decide (f.byteAt 0 = 2) && within 1 4 (f.byteAt 1)
  | .queryCarriage => decide (f.byteAt 0 = 3) && within 1 2 (f.byteAt 1)
  | .queryLine => decide (f.byteAt 0 = 4 ∧ f.byteAt 1 = 0)
  | .queryLotList => decide (f.byteAt 0 = 5 ∧ f.byteAt 1 = 0)
  | .queryCutLists => decide (f.byteAt 0 = 6 ∧ f.byteAt 1 = 0)
  | .queryDumpLists => decide (f.byteAt 0 = 7 ∧ f.byteAt 1 = 0)
  | .queryEarlyWindow => decide (f.byteAt 0 = 8 ∧ f.byteAt 1 = 0)
  | .get => (itemOf? (f.byteAt 0)).isSome
  | .hold | .release | .step => vat
  | .stepMode | .service => vat && within 0 1 (f.byteAt 1)
  | .freeze => within 1 3 (f.byteAt 0) && within 0 1 (f.byteAt 1)
  | .clearBank => decide (f.byteAt 0 = 1) && within 1 4 (f.byteAt 1)
  | .clearCarriage => decide (f.byteAt 0 = 2) && within 1 2 (f.byteAt 1)
  | .clearLine => decide (f.byteAt 0 = 3 ∧ f.byteAt 1 = 0)
  | .set => (itemOf? (f.byteAt 0)).any fun i => t.allows i (f.pairAt 1)
  | .mapSlot => slot && within 1 24 (f.byteAt 1)
  | .declare => slot && within 0 7 (f.byteAt 1) && within 1000 30000 (f.pairAt 4) && within 0 11 (f.byteAt 6)

/-- The requests whose slot their owner resolves through the slot map (R6). -/
def resolvesSlot (r : Request) : Bool :=
  decide (r ∈ [Request.fillOrder, .fillCancel, .fillResume, .setSlot, .vatQuery, .dumpEarly, .releaseOverset, .discard,
    .declare])

/-- The state in which an asked request is applied: its frame taken, and its reply with the result `x` and the data `d` at
the tail of the queue (R147, R148, R154). -/
def State.answered (s : State) (l : Link) (edit : Bool) (f : Frame) (x : Result) (d : List Field) : State :=
  (s.taken l edit).answer ⟨l, f⟩ x d

/-- The state after the bytes `bs` have been received on a link, one character each. -/
def State.receiveAll (s : State) (l : Link) (bs : List Byte) : State := bs.foldl (fun t b => t.receive l (.byte b)) s

/-- The message queued on a link by a request: its reply, and behind it only notices (R148). -/
def RepliesThenNotices (s t : State) (l : Link) (f : Frame) (x : Result) (d : List Field) : Prop :=
  ∃ ns : List Notice,
    (t.link l).queue = (s.link l).queue ++ .reply (f.kind ||| 0x80) f.tag x d :: ns.map Message.notice

end Sys2Proof.Machine
end

