-- ==== Sys2Proof/Certificates/Slice0/Obligations.lean ====
section
/-! DEFINITION. The statements for the provers. OBLIGATIONS.json gives each its title and the rules it rests on. -/

open Sys2Proof Sys2Proof.Machine

/-! ### The machine -/

/-- A step with a command at the front of the queue is that command's meaning on the state with the queue's rest (log 1). -/
def Obligations.StepTakesFrontCommand : Prop :=
  ∀ (c : Instr) (rest : List Instr) (s : State), s.pending = c :: rest → step s = exec c { s with pending := rest }

/-- With an empty queue: in reset the part idles; otherwise the clock ticks when nothing else can come about, and does not
tick while anything is due (model's choice, log 2).
One tick adds one to the make clock and to every timer and counter that runs, and changes nothing else (R173, R77,
R151). -/
def Obligations.EmptyQueueTicksWhenNothingIsDue : Prop :=
  (∀ s : State, s.pending = [] →
     (s.inReset = true → step s = .next s) ∧
     (s.inReset = false → s.dueEvents = [] → s.ownEvents = [] → step s = .next s.tick) ∧
     (s.inReset = false → s.dueEvents ≠ [] → ∃ i ∈ s.dueEvents ++ s.ownEvents, step s = exec i s.afterChoice)) ∧
  (∀ s : State, s.clock + 1 < Config.clockRange →
     s.tick = { s with clock := s.clock + 1, banks := s.tick.banks, carriages := s.tick.carriages, line := s.tick.line,
                       links := s.tick.links } ∧
     (∀ b : Bank, s.tick.bank b =
       { s.bank b with
         travel := (s.bank b).travel.map Timer.tick, drain := (s.bank b).drain.map Timer.tick,
         pathOpen := (s.bank b).pathOpen.map (· + 1), noFlow := (s.bank b).noFlow.map Timer.tick,
         flush := (s.bank b).flush.map Timer.tick, rinse := (s.bank b).rinse.map Timer.tick,
         park := (s.bank b).park.map (· + 1), parkPulse := (s.bank b).parkPulse.map Timer.tick,
         rinseCount :=
           if s.settings.rinseInterval = 0 ∨ (s.bank b).state = .parked ∨ (s.bank b).state = .faulted
           then (s.bank b).rinseCount else (s.bank b).rinseCount + 1 }) ∧
     (∀ c : Carriage, s.tick.carriage c =
       { s.carriage c with
         start := (s.carriage c).start.map Timer.tick, slice := (s.carriage c).slice.map Timer.tick }) ∧
     s.tick.line = { s.line with start := s.line.start.map Timer.tick, duration := s.line.duration.map Timer.tick } ∧
     ∀ l : Link, s.tick.link l = { s.link l with presence := (s.link l).presence.map (· + 1) })

/-! ### Resets -/

/-- The state right after a reset: what R4, R5, R50, R73, R89, R97, R116, R153, R162 and R171 give,
with PROVED high on every bank, so that the banks stand in the PROVE phase (model's choice, log 6).
Every field of the vat, bank, carriage and line records and of the settings store is given; of the links every field but the
model's own mark of a break that goes on (log 10). Two fields of the records are the model's own, and so are their values
here: of a vat, that no heal-max came first (healMaxFirst, log 37), and of a bank, that no stopped path is remembered
(stoppedPath, log 21). -/
def Obligations.StartUpState : Prop :=
  State.reset.clock = 0 ∧ State.reset.inReset = false ∧ State.reset.restartAccepted = false ∧
  State.reset.frozen = ⟨false, false, false⟩ ∧
  State.reset.settings =
    { classes := Vector.replicate 8 ⟨1800, 2400, 1500, 2700⟩, zoneEnds := #v[6, 12, 18, 24], travelLimit := 8,
      drainInterval := 45, pathOpenLimit := 40, rinseInterval := 120, rinseDuration := 180, flushCount := 8,
      flushDuration := 30, parkDelay := 20, litresPerPulse := 5, noFlowTime := 30, washVolume := 400,
      urgencyMargin := 120, cutStartLimit := 90, cutSliceLimit := 900, strikes := 3, reach := #v[⟨1, 14⟩, ⟨11, 24⟩],
      dumpStartLimit := 60, dumpDurationLimit := 1200, volumeTolerance := 3, presenceTimeout := 10 } ∧
  (∀ v : Vat, State.reset.vat v =
    { service := .inUse, stage := .vacant, slot := slotOf? (v.val + 1), batch := none, recipe := none, snapshot := none,
      target := none, filled := 0, setTime := none, cutOpen := none, cutClose := none, cutDone := none, healMin := none,
      healMax := none, held := false, stepMode := false, stepPending := .nothing, carriage := none, lot := none,
      early := false, waste := false, declared := false, healMaxFirst := false }) ∧
  (∀ n : Slot, State.reset.slotMap[n] = vatOf? (n.val + 1)) ∧
  (∀ b : Bank, State.reset.bank b =
    { state := .start, path := none, current := none, list := [], closeCause := none, closePhase := none,
      travel := some ⟨0, 8⟩, drain := none, pathOpen := none, stoppedPath := none, noFlow := none, faultCause := none,
      startPhase := some .prove, flushesDone := some 0, flush := none, rinse := none, rinseCount := 0,
      rinsePending := false, rinseOverdue := false, park := none, parkDrain := none, parkPulse := none }) ∧
  (∀ c : Carriage, State.reset.carriage c =
    { state := .free, blocked := false, vat := none, tag := none, orderedAt := none, startedAt := none,
      faultCause := none, freeSince := 0, missed := 0, start := none, slice := none }) ∧
  State.reset.tagCounter = 1 ∧ State.reset.tagToIssue = 1 ∧ State.reset.lateTags = [] ∧
  State.reset.routinePause = false ∧ State.reset.urgent = [] ∧ State.reset.openList = [] ∧
  State.reset.line =
    { state := .free, current := none, start := none, duration := none, orderedAt := none, startedAt := none,
      faultCause := none, mouldsLow := false, lotCounter := 1, freeSince := 0 } ∧
  State.reset.lotToIssue = 1 ∧ State.reset.lateList = [] ∧ State.reset.routine = [] ∧ State.reset.lots = [] ∧
  State.reset.window = [] ∧
  (∀ l : Link, (State.reset.link l).assembly = none ∧ (State.reset.link l).buffer = [] ∧
    (State.reset.link l).queue = [] ∧ (State.reset.link l).sending = none ∧ (State.reset.link l).presence = none ∧
    (State.reset.link l).overrun = false ∧ (State.reset.link l).frameError = false ∧
    (State.reset.link l).noticeLoss = false ∧ (State.reset.link l).restarted = true)

/-- POWER_ON_RESET and RESET_RELEASE bring the start-up state, with the straps sampled and each bank in the PROVE phase, or
in the FLUSH phase when PROVED is low; RESETN_ASSERTED holds the part, its outputs closed, its lines at mark and an accepted
RESTART cancelled, until the release (R74, R140, R153, R171, R172). EDIT, the queue and the free counter are no part of a
reset (model's choices, log 5, 27). That the records are kept while RESETN is low is the model's reading (log 9), and that
POWER_ON_RESET with RESETN low brings the straps and the start-up state before the release is its choice (log 38).
An accepted RESTART takes effect when its reply has been sent, and at a break of the Console link that comes before the
reply begins: every block enters its start-up state, and settings, slot map, service and straps are kept (R4, R153, R170,
R171). Model's choices here: a break that goes on is kept by a RESTART (log 10), a bank that a RESTART finds with PROVED low
flushes at once (log 19), and the reply of the RESTART is the DONE of kind 0xD4 (log 29). -/
def Obligations.ResetsTakeEffect : Prop :=
  ((∀ (s : State) (resetn r1 r0 : Bool) (proved : Vector Bool 4),
     exec (.powerOnReset resetn r1 r0 proved) s = .next
       { State.reset with
         inReset := !resetn, straps := ⟨r1, r0⟩, proved := proved, edit := s.edit, drawn := s.drawn, pending := s.pending,
         banks := Vector.ofFn fun b => startedBank Settings.default proved[b] }) ∧
   (∀ (s : State) (r1 r0 : Bool), s.inReset = true →
     exec (.resetRelease r1 r0) s = exec (.powerOnReset true r1 r0 s.proved) s) ∧
   (∀ s : State, s.inReset = false → ∃ t, exec .resetnAsserted s = .next t ∧
     t = { s with inReset := true, restartAccepted := false, links := t.links } ∧
     (∀ l : Link, t.link l = { s.link l with sending := none }) ∧ ∀ b : Bank, t.outputs b = Outputs.closed) ∧
   (∀ t : Settings, (startedBank t true).startPhase = some .prove ∧ (startedBank t true).travel = some ⟨0, t.travelLimit⟩ ∧
     (startedBank t false).startPhase = some .flush ∧ (startedBank t false).travel = none ∧
     (startedBank t false).flush = some ⟨0, t.flushDuration⟩)) ∧
  ((∀ (s : State) (f : SentFrame) (tag : Byte) (data : List Field), s.inReset = false → s.restartAccepted = true →
     (s.link .console).sending = some f → f.message = .reply 0xD4 tag .done data →
     exec (.frameSent .console) s = .next s.restartNow) ∧
   (∀ s : State, s.inReset = false → (s.link .console).inBreak = false → s.restartAccepted = true →
     (∀ f, (s.link .console).sending = some f → f.message.isRestartReply = false) →
     exec (.lineBreak .console) s = .next (s.modLink .console fun u => { u with inBreak := true }).restartNow) ∧
   (∀ s : State, s.restartNow.settings = s.settings ∧ s.restartNow.slotMap = s.slotMap ∧ s.restartNow.straps = s.straps ∧
     s.restartNow.clock = 0 ∧ s.restartNow.restartAccepted = false ∧ s.restartNow.frozen = ⟨false, false, false⟩ ∧
     (∀ v : Vat, s.restartNow.vat v =
       { State.reset.vat v with service := (s.vat v).service, slot := (s.vat v).slot }) ∧
     (∀ b : Bank, s.restartNow.bank b = startedBank s.settings s.proved[b]) ∧
     s.restartNow.carriages = State.reset.carriages ∧ s.restartNow.urgent = [] ∧ s.restartNow.openList = [] ∧
     s.restartNow.tagCounter = 1 ∧ s.restartNow.lateTags = [] ∧ s.restartNow.routinePause = false ∧
     s.restartNow.line = State.reset.line ∧ s.restartNow.lateList = [] ∧ s.restartNow.routine = [] ∧
     s.restartNow.lots = [] ∧ s.restartNow.window = [] ∧
     ∀ l : Link, s.restartNow.link l = { State.reset.link l with inBreak := (s.link l).inBreak }))

/-! ### What every step keeps -/

/-- Every step keeps the settings in their ranges and orderings. -/
def Obligations.EveryStepKeepsSettings : Prop :=
  ∀ s t : State, SettingsHold s → step s = .next t → SettingsHold t

/-- Every step keeps the slot fields of the vat records and the slot map in agreement. -/
def Obligations.EveryStepKeepsSlots : Prop :=
 ∀ s t : State, SlotsAgree s → step s = .next t → SlotsAgree t

/-- Every step keeps the queues and buffers of the links within their room. -/
def Obligations.EveryStepKeepsLinkRoom : Prop :=
 ∀ s t : State, LinksHold s → step s = .next t → LinksHold t

/-- Every step keeps the lot list and the early window within their room. -/
def Obligations.EveryStepKeepsLotRoom : Prop :=
 ∀ s t : State, LotsHold s → step s = .next t → LotsHold t

/-- Every step keeps the bank records sound. -/
def Obligations.EveryStepKeepsBanks : Prop :=
 ∀ s t : State, BanksHold s → step s = .next t → BanksHold t

/-- Every step keeps the carriage records and the late-tag set sound. -/
def Obligations.EveryStepKeepsCarriages : Prop :=
  ∀ s t : State, CarriagesHold s ∧ LateTagsHold s → step s = .next t → CarriagesHold t ∧ LateTagsHold t

/-- Every step keeps the curd line record sound. -/
def Obligations.EveryStepKeepsLine : Prop :=
 ∀ s t : State, LineHolds s → step s = .next t → LineHolds t

/-- Every step keeps each vat named in the one place its stage gives it, or in none (R21), the lot list in agreement with the
line (R121, R122), and the cancel mark to fills (R26, R62). The premises are kept by this and the other invariants. -/
def Obligations.EveryStepKeepsClaims : Prop :=
  ∀ s t : State, RoomHolds s ∧ VatsHold s → step s = .next t → ClaimsHold t ∧ LotListHolds t ∧ CancelsHold t

/-- Every step keeps the vat records sound. The premises are kept by this and the other invariants. -/
def Obligations.EveryStepKeepsVats : Prop :=
  ∀ s t : State, RoomHolds s ∧ VatsHold s ∧ SlotsAgree s → step s = .next t → VatsHold t

/-- The state right after a reset has all the properties that every step keeps. -/
def Obligations.StartUpStateHolds : Prop :=
  SettingsHold State.reset ∧ SlotsAgree State.reset ∧ LinksHold State.reset ∧
    RoomHolds State.reset ∧ VatsHold State.reset

/-! ### Links -/

/-- A frame as it goes on the line is received as it was sent: with an idle assembly, its bytes, delimiters and escapes
included, are heard and offered to the receive buffer as that frame (R141 to R145).
On the line a byte is a start bit, its eight bits low bit first and a stop bit, at the rate the straps set; a character
whose stop bit is not high is an error; a line that sends nothing rests (R140). -/
def Obligations.FrameSentIsFrameReceived : Prop :=
  (∀ (s : State) (l : Link) (kind tag flags : Byte) (payload : List Byte),
     (s.link l).assembly = none → kind.msb = false → payload.length ≤ 48 →
     s.receiveAll l (lineBytes kind tag flags payload) =
       (s.heard l).modLink l fun u => u.offer ⟨kind, tag, flags, payload⟩) ∧
  (∀ b : Byte, (characterLevels b).length = 10 ∧ (characterLevels b)[0]? = some false ∧
     (characterLevels b)[9]? = some true ∧ (∀ i : Fin 8, (characterLevels b)[i.val + 1]? = some (b.getLsbD i.val)) ∧
     characterOf (characterLevels b) = some (.byte b) ∧
     characterOf ((characterLevels b).take 9 ++ [false]) = some .error) ∧
  (∀ (s : State) (l : Link),
     ((s.link l).sending = none → s.transmitLevels l = []) ∧
     (∀ x, (s.link l).sending = some x → s.transmitLevels l =
       (lineBytes x.message.kind x.message.tag x.flags x.message.payload).flatMap characterLevels) ∧
     (s.straps = ⟨false, false⟩ → s.bitRate = 9600) ∧ (s.straps = ⟨false, true⟩ → s.bitRate = 19200) ∧
     (s.straps = ⟨true, false⟩ → s.bitRate = 38400) ∧ (s.straps = ⟨true, true⟩ → s.bitRate = 115200))

/-- What a character does to the receive assembly, by the table of R144, out of reset and out of a break; nothing else of the
state changes unless it closes a frame.
How a byte other than the delimiter adds to an open frame: unescaped, up to 53 bytes, a wrong byte after an escape and a
54th byte, written plainly or as an escape, marking the frame bad (R142, R144). That a character error ends the gap timing of
the frame, so that its gap mark is set and later bytes keep it, is the model's reading of R146 (log 11). -/
def Obligations.CharactersBuildFrames : Prop :=
  (∀ (s : State) (l : Link), s.inReset = false → (s.link l).inBreak = false →
     ((s.link l).assembly = none →
       exec (.characterReceived l (.byte delimiter)) s =
         .next (s.modLink l fun u => { u with assembly := some ⟨[], false, false, false, false⟩ }) ∧
       (∀ b, b ≠ delimiter → exec (.characterReceived l (.byte b)) s = .next s) ∧
       exec (.characterReceived l .error) s = .next s) ∧
     (∀ f, (s.link l).assembly = some f →
       (f.received = false → exec (.characterReceived l (.byte delimiter)) s =
         .next (s.modLink l fun u => { u with assembly := some ⟨[], false, false, false, false⟩ })) ∧
       (f.received = true → exec (.characterReceived l (.byte delimiter)) s = exec (.frameClosed l) s) ∧
       (∀ b, b ≠ delimiter → exec (.characterReceived l (.byte b)) s =
         .next (s.modLink l fun u => { u with assembly := some (f.add b) })) ∧
       exec (.characterReceived l .error) s =
         .next (s.modLink l fun u => { u with assembly := some { f with bad := true, gapEnded := true } }))) ∧
  (∀ f : OpenFrame,
     (∀ b, f.escape = false → b ≠ escapeByte → f.bytes.length < 53 →
       f.add b = { f with received := true, bytes := f.bytes ++ [b] }) ∧
     (∀ b, f.escape = false → b ≠ escapeByte → 53 ≤ f.bytes.length →
       f.add b = { f with received := true, bad := true }) ∧
     (f.escape = false → f.add 0x5B = { f with received := true, escape := true }) ∧
     (f.escape = true → f.bytes.length < 53 →
       f.add 0x7A = { f with received := true, escape := false, bytes := f.bytes ++ [0x5A] } ∧
       f.add 0x7B = { f with received := true, escape := false, bytes := f.bytes ++ [0x5B] }) ∧
     (∀ b, f.escape = true → b ≠ 0x7A → b ≠ 0x7B → (f.add b).bad = true ∧ (f.add b).bytes = f.bytes)) ∧
  (∀ f : OpenFrame, f.escape = true → 53 ≤ f.bytes.length →
     f.add 0x7A = { f with received := true, escape := false, bad := true } ∧
     f.add 0x7B = { f with received := true, escape := false, bad := true })

/-- A closed frame is checked: valid exactly when it is good, has no cut escape, and its bytes are a kind with its top bit
clear, a tag, flags, a payload and the CRC of these; an invalid frame sets the frame-error mark, a valid one is heard and
joins the buffer or overruns (R143, R145, R147). -/
def Obligations.ClosedFramesAreChecked : Prop :=
  (∀ (f : OpenFrame) (x : Frame), f.valid = some x ↔
    f.bad = false ∧ f.escape = false ∧ x.kind.msb = false ∧
      f.bytes = x.kind :: x.tag :: x.flags :: x.payload ++
        lowFirst 2 (crcOf (x.kind :: x.tag :: x.flags :: x.payload)).toNat) ∧
  (∀ (s : State) (l : Link) (f : OpenFrame), s.inReset = false → (s.link l).assembly = some f → f.received = true →
    (f.valid = none →
      exec (.frameClosed l) s = .next (s.modLink l fun u => { u with assembly := none, frameError := true })) ∧
    (∀ x, f.valid = some x → ((s.link l).buffer.length < 2 →
      exec (.frameClosed l) s = .next (((s.modLink l fun u => { u with assembly := none }).heard l).modLink l fun u =>
        { u with buffer := (s.link l).buffer ++ [x] })) ∧
      (2 ≤ (s.link l).buffer.length →
        exec (.frameClosed l) s = .next (((s.modLink l fun u => { u with assembly := none }).heard l).modLink l fun u =>
          { u with overrun := true }))))

/-- A gap of 32 bit times abandons an open frame that has a byte and whose gap timing no character error has ended, with the
frame-error mark; a frame without a byte is not timed; the return to mark ends a break (R146, R150).
The end of a sent frame that is not the reply of an accepted RESTART frees the line and changes nothing else (R148,
R153). -/
def Obligations.GapsAndFrameEnds : Prop :=
  (∀ (s : State) (l : Link), s.inReset = false →
     (∀ f, (s.link l).assembly = some f → f.received = true → f.gapEnded = false →
       exec (.frameAbandoned l) s = .next (s.modLink l fun u => { u with assembly := none, frameError := true })) ∧
     (∀ f, (s.link l).assembly = some f → f.received = false → exec (.frameAbandoned l) s = .next s) ∧
     exec (.lineReturnedToMark l) s = .next (s.modLink l fun u => { u with inBreak := false })) ∧
  (∀ (s : State) (l : Link), s.inReset = false → s.sendsRestartReply l = false →
     exec (.frameSent l) s = .next (s.modLink l fun u => { u with sending := none }))

/-- A valid frame counts for presence: it restarts the timer of a PRESENT station, and makes an ABSENT one PRESENT, with
STATION PRESENT on the Console link and the look of the block that reads the presence; the Console link keeps none (R69,
R85, R93, R118, R151).
The presence timer's expiry makes a station ABSENT with STATION ABSENT and its cause on the Console link; the Cut
station's absence withdraws every order and grants none, the Press station's changes nothing more, the Fill station's only
lets park timers start (R54, R83, R109, R126, R151). -/
def Obligations.PresenceFollowsFramesAndTimeout : Prop :=
  (∀ (s : State) (l : Link),
     (l = .console → s.heard l = s) ∧
     (l ≠ .console → ∀ n, (s.link l).presence = some n → s.heard l = s.modLink l fun u => { u with presence := some 0 }) ∧
     ((s.link l).presence = none →
       let t := (s.modLink l fun u => { u with presence := some 0 }).raise .console (.stationPresent l)
       (l = .fill → s.heard l = t.bankLooks (fun e => decide (e.kind = .fill)) allBanks) ∧
       (l = .cut → s.heard l = t.cutLook) ∧ (l = .press → s.heard l = t.lineLook))) ∧
  (∀ (s : State) (l : Link) (n : Nat), s.inReset = false → l ≠ .console → (s.link l).presence = some n →
     s.settings.presenceTimeout ≤ n →
     let t := (s.modLink l fun u => { u with presence := none }).raise .console (.stationAbsent l .timeout)
     (l = .fill → exec (.presenceTimeout l) s = .next (t.parkLooks allBanks)) ∧
     (l = .cut → exec (.presenceTimeout l) s = .next t.withdrawForAbsence ∧
       ((∀ c : Carriage, (s.carriage c).Sound) → ∀ c : Carriage, (t.withdrawForAbsence.carriage c).state ≠ .ordered ∧
         ((s.carriage c).state ≠ .ordered → t.withdrawForAbsence.carriage c = s.carriage c))) ∧
     (l = .press → exec (.presenceTimeout l) s = .next t))

/-- A break closes the assembly without the frame-error mark, empties the buffer and the queue, makes the station ABSENT and
leaves the marks and a frame being sent as they are; what its absence raises on the link is queued behind the emptying
(R150, R153). A break of the Console link while the reply of an accepted RESTART waits is another statement.
The break of a PRESENT station's link queues STATION ABSENT with cause BREAK on the Console link, and then the Fill station's
lets park timers start, the Cut station's withdraws every order, and the Press station's does nothing more (R83, R109, R126,
R151).
The withdrawal of every order: none stands, one stands, or two stand, of which the one granted later is withdrawn first;
each carriage becomes FREE now, its vat's entry returns to the head of its list and ORDER WITHDRAWN is raised (R34, R100,
R109; the last grant is kept as log 20 says). -/
def Obligations.BreakEmptiesLink : Prop :=
  (∀ (s : State) (l : Link), s.inReset = false → (s.link l).inBreak = false →
     (l = .console → s.restartUnsent = false) →
     ∃ (t : State) (ns : List Notice), exec (.lineBreak l) s = .next t ∧
       t.link l = { s.link l with assembly := none, buffer := [], queue := ns.map Message.notice, presence := none,
                                  inBreak := true } ∧
       t.settings = s.settings ∧ t.slotMap = s.slotMap ∧ t.clock = s.clock ∧ t.lots = s.lots ∧ t.line = s.line) ∧
  (∀ (s : State) (l : Link), s.inReset = false → (s.link l).inBreak = false →
     (l = .console → s.restartUnsent = false) →
     let u := s.modLink l fun k => { k with assembly := none, buffer := [], queue := [], inBreak := true }
     let t := (u.modLink l fun k => { k with presence := none }).raise .console (.stationAbsent l .lineBreak)
     ((s.link l).presence = none → exec (.lineBreak l) s = .next u) ∧
     (∀ n, (s.link l).presence = some n →
       (l = .fill → exec (.lineBreak l) s = .next (t.parkLooks allBanks)) ∧
       (l = .cut → exec (.lineBreak l) s = .next t.withdrawForAbsence) ∧
       (l = .press → exec (.lineBreak l) s = .next t))) ∧
  (∀ s : State,
     let withdrawn (t : State) (c : Carriage) (v : Vat) : State :=
       (((t.modCarriage c fun k =>
         { k with state := .free, freeSince := s.clock, vat := none, tag := none, orderedAt := none, start := none }).modVat
           v fun r => { r with carriage := none }).returnCut v).raise .cut
             (.orderWithdrawn c (t.carriage c).tag (some v) (t.vat v).slot .absent)
     ((∀ c : Carriage, (s.carriage c).state ≠ .ordered) → s.withdrawForAbsence = s) ∧
     (∀ c c' v, c ≠ c' → (s.carriage c).state = .ordered → (s.carriage c).vat = some v →
       (s.carriage c').state ≠ .ordered → s.withdrawForAbsence = withdrawn s c v) ∧
     (∀ later earlier v v', later ≠ earlier → s.lastGranted = some later → (s.carriage later).state = .ordered →
       (s.carriage later).vat = some v → (s.carriage earlier).state = .ordered → (s.carriage earlier).vat = some v' →
       s.withdrawForAbsence = withdrawn (withdrawn s later v) earlier v'))

/-- The message at the head of a queue leaves it as its frame begins; a reply carries the RESTARTED and NOTICE-LOSS marks as
they then stand and turns both off, a notice carries flags of 0 and clears neither; the arbiter that waits for room then
looks (R93, R118, R148, R149). -/
def Obligations.SendingReadsMarks : Prop :=
  ∀ (s : State) (l : Link) (m : Message) (rest : List Message), s.inReset = false → (s.link l).sending = none →
    (s.link l).queue = m :: rest →
    (∀ kind tag x d, m = .reply kind tag x d →
      exec (.frameSendStart l) s = .next ((s.modLink l fun u =>
        { u with queue := rest, restarted := false, noticeLoss := false,
                 sending := some ⟨m, Byte.ofNat ((s.link l).restarted.toNat + 2 * (s.link l).noticeLoss.toNat)⟩ }).lookAtRoom
          l)) ∧
    (∀ n, m = .notice n →
      exec (.frameSendStart l) s =
        .next ((s.modLink l fun u => { u with queue := rest, sending := some ⟨m, 0⟩ }).lookAtRoom l)) ∧
    (∀ t : State, t.lookAtRoom .cut = t.cutLook ∧ t.lookAtRoom .press = t.lineLook ∧ t.lookAtRoom .fill = t ∧
      t.lookAtRoom .console = t)

/-! ### Every request -/

/-- The checks of R155 before the fields, in their order: the first that fails decides the result, the reply carries it
alone, and beyond the reply and the frame's leaving the buffer the request changes nothing. Every row of the request set,
and a kind that is not defined. Which row a frame belongs to is log 4.
The fifth check, of every row: a field out of its range is answered RANGE; and of every row whose slot is resolved through
the slot map: with its fields in range, a slot that names no vat is answered UNMAPPED (R6, R155 to R159, R164). -/
def Obligations.FirstChecksDecide : Prop :=
  (∀ (s : State) (l : Link) (edit : Bool) (r : Request) (f : Frame), s.takable l = some f → f.request = r →
     (r = .unknownKindRequest → exec (.ofRequest l edit r) s = .next (s.answered l edit f .unknown [])) ∧
     (r ≠ .unknownKindRequest → f.payload.length ≠ payloadSize r →
       exec (.ofRequest l edit r) s = .next (s.answered l edit f .length [])) ∧
     (r ≠ .unknownKindRequest → f.payload.length = payloadSize r → allowedOn r l = false →
       exec (.ofRequest l edit r) s = .next (s.answered l edit f .role [])) ∧
     (r ≠ .unknownKindRequest → f.payload.length = payloadSize r → allowedOn r l = true → isConfiguration r = true →
       edit = false → exec (.ofRequest l edit r) s = .next (s.answered l edit f .permit []))) ∧
  (∀ (s : State) (l : Link) (edit : Bool) (r : Request) (f : Frame), Asks s l edit r f →
     fieldsInRange s.settings r f = false → exec (.ofRequest l edit r) s = .next (s.answered l edit f .range [])) ∧
  (∀ (s : State) (l : Link) (edit : Bool) (r : Request) (f : Frame) (slot : Slot), Asks s l edit r f →
     resolvesSlot r = true → fieldsInRange s.settings r f = true → slotOf? (f.byteAt 0) = some slot →
     s.slotMap[slot] = none → exec (.ofRequest l edit r) s = .next (s.answered l edit f .unmapped []))

/-- Every request that is taken gets exactly one reply, at the tail of the queue as it stood, with only notices behind it,
and its frame leaves the buffer (R147, R148, R154). -/
def Obligations.OneReplyForEachRequest : Prop :=
  ∀ (s : State) (l : Link) (edit : Bool) (r : Request) (f : Frame), s.takable l = some f → f.request = r →
    ∃ (t : State) (x : Result) (d : List Field), exec (.ofRequest l edit r) s = .next t ∧
      RepliesThenNotices s t l f x d ∧ (t.link l).buffer = (s.link l).buffer.tail

/-- Every part of every report fits a payload of 48 bytes, with the result code before it (R141, R165). The coding of the
fields is as log 12 to 16 and 34 to 36 read it.
A field is its value low byte first, with a byte before it that says whether it is present where it has one; the codes of
the stages, states, phases, causes, kinds, stations and results are their places in the rules that list them (R160, R161,
R169). -/
def Obligations.ReportsFitTheirPayload : Prop :=
  (∀ (s : State) (subject number part : Nat), LotsHold s →
     (∀ v, 1 + (((s.vatReport v).data subject number part).map Field.size).sum ≤ 48) ∧
     (∀ b, 1 + (((s.bankReport b).data subject number part).map Field.size).sum ≤ 48) ∧
     (∀ c, 1 + (((s.carriageReport c).data subject number part).map Field.size).sum ≤ 48) ∧
     1 + ((s.cutListsReport.data subject number part).map Field.size).sum ≤ 48 ∧
     1 + ((s.lineReport.data subject number part).map Field.size).sum ≤ 48 ∧
     1 + ((s.lotListReport.data subject number part).map Field.size).sum ≤ 48 ∧
     1 + ((s.dumpListsReport.data subject number part).map Field.size).sum ≤ 48 ∧
     1 + ((s.windowReport.data subject number part).map Field.size).sum ≤ 48) ∧
  (∀ (w n : Nat), Field.bytes ⟨w, false, some n⟩ = lowFirst w n ∧ Field.bytes ⟨w, false, none⟩ = lowFirst w 0 ∧
     Field.bytes ⟨w, true, some n⟩ = 1 :: lowFirst w n ∧ Field.bytes ⟨w, true, none⟩ = 0 :: lowFirst w 0) ∧
  ([Stage.vacant, .fillQueued, .filling, .charged, .setting, .cutWindow, .cutting, .working, .dumpQueued, .dumping,
    .washing, .overset].map Stage.code = [0, 1, 2, 3, 4, 5, 6, 7, 8, 9, 10, 11] ∧
   [Service.inUse, .outOfUse].map Service.code = [1, 2] ∧
   [StepPending.nothing, .cutOpen, .healMin].map StepPending.code = [0, 1, 2] ∧
   [TransferKind.fill, .wash].map TransferKind.code = [1, 2] ∧
   [Phase.openingPath, .running, .stalled].map Phase.code = [1, 2, 3] ∧
   [BankState.start, .priming, .ready, .opening, .opened, .closing, .rinsing, .parked, .faulted].map BankState.code =
     [1, 2, 3, 4, 5, 6, 7, 8, 9] ∧
   [CloseCause.miss, .limit, .rinse].map CloseCause.code = [1, 2, 3] ∧
   [ClosePhase.travel, .drain].map ClosePhase.code = [1, 2] ∧
   [BankFaultCause.prime, .valve, .stray].map BankFaultCause.code = [1, 2, 3] ∧
   [StartPhase.prove, .flush].map StartPhase.code = [1, 2] ∧
   [ParkState.timing, .parkedDraining, .parked, .notParked].map ParkState.code = [1, 2, 3, 4] ∧
   [CarriageState.free, .ordered, .cutting, .faulted].map CarriageState.code = [1, 2, 3, 4] ∧
   [CarriageFaultCause.strikes, .slice].map CarriageFaultCause.code = [1, 2] ∧
   [CutList.urgent, .openList].map CutList.code = [1, 2] ∧
   [WithdrawCause.cutClose, .startLimit, .refused, .blocked, .absent].map WithdrawCause.code = [1, 2, 3, 4, 5] ∧
   [LineState.free, .ordered, .running, .faulted].map LineState.code = [1, 2, 3, 4] ∧
   [LineFaultCause.duration].map LineFaultCause.code = [1] ∧
   [EntryKind.normal, .waste].map EntryKind.code = [1, 2] ∧
   [LotKind.normal, .late, .waste].map LotKind.code = [1, 2, 3] ∧
   [LotState.ordered, .running, .pressing].map LotState.code = [1, 2, 3] ∧
   [DumpWithdrawCause.startLimit, .refused].map DumpWithdrawCause.code = [1, 2] ∧
   [AbsentCause.timeout, .lineBreak].map AbsentCause.code = [1, 2] ∧
   [Link.fill, .cut, .press].map stationCode = [1, 2, 3] ∧
   [Result.done, .doneLate, .busy, .stage, .unmapped, .service, .conflict, .held, .late, .tag, .allowance, .faulted, .range,
    .role, .permit, .length, .unknown].map Result.code = [0, 1, 2, 3, 4, 5, 6, 7, 8, 9, 10, 11, 12, 13, 14, 15, 16])

/-- STATUS reports the link's overrun and frame-error marks and the make clock, and turns both marks off in the step (R152,
R166). -/
def Obligations.StatusReportsAndClearsMarks : Prop :=
  ∀ (s : State) (l : Link) (edit : Bool) (f : Frame), Asks s l edit .status f →
    exec (.status l edit) s = .next
      ((s.answered l edit f .done [.mark (s.link l).overrun, .mark (s.link l).frameError, .time s.clock]).modLink l
        fun u => { u with overrun := false, frameError := false })

/-! ### The Fill link -/

/-- FILL ORDER: the owner's checks in their order, and the accepted order: the reply names the vat and the bank, the record
is filled in with the class as the table holds it, and the FILL entry joins the list of the zone's bank (R6, R12, R14,
R23, R160).
The zone's bank is the one between whose zone ends the vat's number lies (R48). -/
def Obligations.FillOrderChargesVat : Prop :=
  (∀ (s : State) (l : Link) (edit : Bool) (f : Frame), Asks s l edit .fillOrder f →
     ∀ (slot : Slot) (c : RecipeClass), slotOf? (f.byteAt 0) = some slot → classOf? (f.byteAt 1) = some c →
       1000 ≤ f.pairAt 2 → f.pairAt 2 ≤ 30000 →
       (s.slotMap[slot] = none → exec (.fillOrder l edit) s = .next (s.answered l edit f .unmapped [])) ∧
       ∀ v, s.slotMap[slot] = some v →
         ((s.vat v).service = .outOfUse → exec (.fillOrder l edit) s = .next (s.answered l edit f .service [])) ∧
         ((s.vat v).service = .inUse → (s.vat v).held = true →
           exec (.fillOrder l edit) s = .next (s.answered l edit f .held [])) ∧
         ((s.vat v).service = .inUse → (s.vat v).held = false → (s.vat v).stage ≠ .vacant →
           exec (.fillOrder l edit) s = .next (s.answered l edit f .stage [])) ∧
         ((s.vat v).service = .inUse → (s.vat v).held = false → (s.vat v).stage = .vacant →
           exec (.fillOrder l edit) s = .next
             (((s.answered l edit f .done [.vat v, .bank (s.bankOf v)]).modVat v fun r =>
               { r with stage := .fillQueued, batch := some (f.pairAt 4), recipe := some c,
                        snapshot := some s.settings.classes[c], target := some (f.pairAt 2), filled := 0 }).joinTransfer
               (s.bankOf v) ⟨v, .fill, f.pairAt 2, 0, false⟩))) ∧
  (∀ (s : State) (v : Vat), SettingsHold s →
     let b := s.bankOf v
     (if b = 0 then 0 else s.settings.zoneEnds[b - 1]) < v.val + 1 ∧ v.val + 1 ≤ s.settings.zoneEnds[b])

/-- An entry that joins a bank's list: in a state in which the bank does not look, it waits at the tail; a PARKED bank wakes
into PRIMING; a READY bank with nothing else to take takes it if it is eligible (R53, R54, R55, R81, R85).
What a look of a bank does: nothing while banks are frozen, a rinse is pending, the bank is in no state that takes or nothing
is eligible; else, for its head-most eligible entry, a READY bank takes it and drives its path, and an OPEN bank without a
transfer feeds its open path's own vat at once or begins to close for a miss; a fill's take makes a FILL-QUEUED vat FILLING
and queues FILL STARTED; the park timer runs exactly in READY with nothing eligible and a delay that is not 0 (R24, R54, R55,
R57, R58, R83).
What a look of several banks does to each: a PARKED bank is woken by an entry that becomes eligible, any other makes its own
look (R69, R85). The banks look in a free order (log 17), which no bank's record depends on. Where park timers alone are
looked at, each bank's is brought to the same rule (R83). -/
def Obligations.JoiningEntriesWaitWakeOrAreTaken : Prop :=
  (∀ (s : State) (b : Bank) (e : Transfer),
     ((s.bank b).state = .start ∨ (s.bank b).state = .priming ∨ (s.bank b).state = .opening ∨
         (s.bank b).state = .closing ∨ (s.bank b).state = .rinsing ∨ (s.bank b).state = .faulted →
       (s.bank b).park = none →
       s.joinTransfer b e = s.modBank b fun k => { k with list := k.list ++ [e] }) ∧
     ((s.bank b).state = .parked → s.joinTransfer b e = s.modBank b fun k =>
       { k with list := k.list ++ [e], state := .priming, faultCause := none, rinseCount := 0,
                flush := some ⟨0, s.settings.flushDuration⟩, park := none, parkDrain := none, parkPulse := none }) ∧
     ((s.bank b).state = .ready → (s.bank b).list = [] → s.frozen.banks = false → (s.bank b).rinsePending = false →
       (s.vat e.vat).held = false → (e.kind = .wash ∨ s.present .fill = true) →
       s.joinTransfer b e = (s.modBank b fun k =>
         { k with list := [], state := .opening, path := some e.vat, current := some ⟨e, .openingPath, false⟩,
                  travel := some ⟨0, s.settings.travelLimit⟩, park := none }).reportTake b e)) ∧
  (∀ (s : State) (e : Transfer), s.eligible e = true ↔
     (s.vat e.vat).held = false ∧ (e.kind = .wash ∨ ∃ n, (s.link .fill).presence = some n)) ∧
  (∀ (s : State) (b : Bank),
     (s.frozen.banks = true ∨ (s.bank b).rinsePending = true ∨
        ((s.bank b).state ≠ .ready ∧ ((s.bank b).state ≠ .opened ∨ (s.bank b).current ≠ none)) ∨
        (∀ e ∈ (s.bank b).list, s.eligible e = false) → s.bankLook b = s) ∧
     (∀ before e behind, s.frozen.banks = false → (s.bank b).rinsePending = false →
       (s.bank b).list = before ++ e :: behind → (∀ y ∈ before, s.eligible y = false) → s.eligible e = true →
       ((s.bank b).state = .ready → s.bankLook b = (s.modBank b fun k =>
         { k with list := before ++ behind, state := .opening, path := some e.vat,
                  current := some ⟨e, .openingPath, false⟩, travel := some ⟨0, s.settings.travelLimit⟩,
                  park := none }).reportTake b e) ∧
       ((s.bank b).state = .opened → (s.bank b).current = none →
         ((s.bank b).path = some e.vat → s.bankLook b = (s.modBank b fun k =>
           { k with list := before ++ behind, current := some ⟨e, .running, false⟩,
                    noFlow := some ⟨0, s.settings.noFlowTime⟩ }).reportTake b e) ∧
         ((s.bank b).path ≠ some e.vat → s.bankLook b = s.beginClose b .miss))) ∧
     (∀ e, (e.kind = .wash → s.reportTake b e = s) ∧
       (e.kind = .fill → s.reportTake b e = (s.modVat e.vat fun r =>
         { r with stage := if r.stage = .fillQueued then .filling else r.stage }).raise .fill
           (.fillStarted (s.vat e.vat).slot e.vat b e.resumed e.volume))) ∧
     (∀ e, (s.bank b).state ≠ .parked → s.joinTransfer b e =
       ((s.modBank b fun k => { k with list := k.list ++ [e] }).bankLook b).parkLook b) ∧
     ((s.bank b).state = .ready → (∀ e ∈ (s.bank b).list, s.eligible e = false) → s.settings.parkDelay ≠ 0 →
       s.parkLook b = s.modBank b fun k => { k with park := some (k.park.getD 0) }) ∧
     ((s.bank b).state ≠ .ready ∨ (∃ e ∈ (s.bank b).list, s.eligible e = true) ∨ s.settings.parkDelay = 0 →
       s.parkLook b = s.modBank b fun k => { k with park := none })) ∧
  (∀ (s : State) (becomes : Transfer → Bool) (bs : List Bank), bs.Nodup →
     (∀ b ∈ bs, (s.bank b).state = .parked → (∃ e ∈ (s.bank b).list, becomes e = true ∧ s.eligible e = true) →
       (s.bankLooks becomes bs).bank b =
         { s.bank b with state := .priming, faultCause := none, rinseCount := 0,
                         flush := some ⟨0, s.settings.flushDuration⟩, park := none, parkDrain := none,
                         parkPulse := none }) ∧
     (∀ b ∈ bs, (s.bank b).state = .parked → (∀ e ∈ (s.bank b).list, becomes e = true → s.eligible e = false) →
       (s.bankLooks becomes bs).bank b = { s.bank b with park := none }) ∧
     (∀ b ∈ bs, (s.bank b).state ≠ .parked →
       (s.bankLooks becomes bs).bank b = ((s.bankLook b).parkLook b).bank b) ∧
     (∀ b, b ∉ bs → (s.bankLooks becomes bs).bank b = s.bank b) ∧
     (∀ b, bs = [b] → (s.bank b).state ≠ .parked → s.bankLooks becomes bs = (s.bankLook b).parkLook b)) ∧
  (∀ (s : State) (bs : List Bank), bs.Nodup →
     s.parkLooks bs = { s with banks := (s.parkLooks bs).banks } ∧
     ∀ b : Bank, (b ∈ bs → (s.parkLooks bs).bank b = (s.parkLook b).bank b) ∧
       (b ∉ bs → (s.parkLooks bs).bank b = s.bank b))

/-- FILL CANCEL: by the vat's stage and where its transfer stands, it removes the entry, ends the transfer with the path left
open, or marks it in OPENING-PATH; the vat becomes VACANT or CHARGED by its filled volume (R26, R62); a vat that becomes
VACANT is cleared (R3). -/
def Obligations.FillCancelEndsFill : Prop :=
  (∀ (s : State) (l : Link) (edit : Bool) (f : Frame), Asks s l edit .fillCancel f →
     ∀ (slot : Slot) (v : Vat), slotOf? (f.byteAt 0) = some slot → s.slotMap[slot] = some v →
       let b := s.bankOf v
       let t := s.answered l edit f .done []
       let unlisted := t.modBank b fun k => { k with list := dropOne (fun e => decide (e.vat = v)) k.list }
       ((s.vat v).stage = .fillQueued →
         exec (.fillCancel l edit) s = .next ((unlisted.modVat v VatRecord.cleared).parkLook b)) ∧
       ((s.vat v).stage = .filling → (∀ c, (s.bank b).current = some c → c.entry.vat ≠ v) → 0 < (s.vat v).filled →
         exec (.fillCancel l edit) s = .next ((unlisted.modVat v fun r => { r with stage := .charged }).parkLook b)) ∧
       ((s.vat v).stage = .filling → (∀ c, (s.bank b).current = some c → c.entry.vat ≠ v) → (s.vat v).filled = 0 →
         exec (.fillCancel l edit) s = .next ((unlisted.modVat v VatRecord.cleared).parkLook b)) ∧
       (∀ c, (s.vat v).stage = .filling → (s.bank b).current = some c → c.entry.vat = v → c.phase = .openingPath →
         exec (.fillCancel l edit) s = .next (t.modBank b fun k => { k with current := some { c with cancel := true } })) ∧
       (∀ c, (s.vat v).stage = .filling → (s.bank b).current = some c → c.entry.vat = v → c.phase ≠ .openingPath →
         exec (.fillCancel l edit) s = .next
           (((t.modBank b fun k => { k with current := none, noFlow := none }).endFill v).afterTransfer b)) ∧
       ((s.vat v).stage ≠ .fillQueued → (s.vat v).stage ≠ .filling →
         exec (.fillCancel l edit) s = .next (s.answered l edit f .stage []))) ∧
  (∀ (s : State) (v : Vat),
     (0 < (s.vat v).filled → s.endFill v = s.modVat v fun r => { r with stage := .charged }) ∧
     ((s.vat v).filled = 0 → s.endFill v = s.modVat v VatRecord.cleared) ∧
     (∀ r : VatRecord, r.cleared =
       { service := r.service, stage := .vacant, slot := r.slot, batch := none, recipe := none, snapshot := none,
         target := none, filled := 0, setTime := none, cutOpen := none, cutClose := none, cutDone := none,
         healMin := none, healMax := none, held := false, stepMode := false, stepPending := .nothing, carriage := none,
         lot := none, early := false, waste := false, declared := false, healMaxFirst := false }))

/-- FILL RESUME: the vat table's checks and the answer of the bank whose zone holds the vat; a STALLED transfer runs again
with its no-flow timer from 0 (R14, R27, R61). -/
def Obligations.FillResumeRunsStalledFill : Prop :=
  ∀ (s : State) (l : Link) (edit : Bool) (f : Frame), Asks s l edit .fillResume f →
    ∀ slot : Slot, slotOf? (f.byteAt 0) = some slot →
      (s.slotMap[slot] = none → exec (.fillResume l edit) s = .next (s.answered l edit f .unmapped [])) ∧
      ∀ v, s.slotMap[slot] = some v →
      let b := s.bankOf v
      ((s.vat v).held = true → exec (.fillResume l edit) s = .next (s.answered l edit f .held [])) ∧
      ((s.vat v).held = false → (s.vat v).stage ≠ .filling →
        exec (.fillResume l edit) s = .next (s.answered l edit f .stage [])) ∧
      ((s.vat v).held = false → (s.vat v).stage = .filling → (s.bank b).state = .faulted →
        exec (.fillResume l edit) s = .next (s.answered l edit f .faulted [])) ∧
      (∀ c, (s.vat v).held = false → (s.vat v).stage = .filling → (s.bank b).state ≠ .faulted →
        (s.bank b).current = some c → c.entry.vat = v → c.phase = .stalled →
        exec (.fillResume l edit) s = .next ((s.answered l edit f .done []).modBank b fun k =>
          { k with current := some { c with phase := .running }, noFlow := some ⟨0, s.settings.noFlowTime⟩ })) ∧
      ((s.vat v).held = false → (s.vat v).stage = .filling → (s.bank b).state ≠ .faulted →
        (∀ c, (s.bank b).current = some c → c.entry.vat = v → c.phase ≠ .stalled) →
        exec (.fillResume l edit) s = .next (s.answered l edit f .stage []))

/-- SET from the Fill station: a CHARGED vat becomes SETTING with its set time now and its cut-open and cut-close from its
snapshot; in any other stage the reply is STAGE; an unmapped slot is UNMAPPED (R2, R6, R28). Make-clock sums lie
in the clock's range (log 8). -/
def Obligations.SetFixesCutWindow : Prop :=
  ∀ (s : State) (l : Link) (edit : Bool) (f : Frame), Asks s l edit .setSlot f →
    ∀ slot : Slot, slotOf? (f.byteAt 0) = some slot →
      (s.slotMap[slot] = none → exec (.setSlot l edit) s = .next (s.answered l edit f .unmapped [])) ∧
      ∀ v, s.slotMap[slot] = some v →
        ((s.vat v).stage ≠ .charged → exec (.setSlot l edit) s = .next (s.answered l edit f .stage [])) ∧
        (∀ x, (s.vat v).stage = .charged → (s.vat v).snapshot = some x → s.clock + x.firmMax < Config.clockRange →
          s.clock + x.firmMin < Config.clockRange →
          exec (.setSlot l edit) s = .next ((s.answered l edit f .done []).modVat v fun r =>
            { r with stage := .setting, setTime := some s.clock, cutOpen := some (s.clock + x.firmMin),
                     cutClose := some (s.clock + x.firmMax) }))

/-- VAT QUERY and the eight rows of QUERY are answered DONE with the part asked for of the report, and change nothing beyond
the reply and the frame's leaving the buffer (R18, R19, R72, R114, R138, R165).
What each report holds, field by field, and how a report is cut into parts (R18, R72, R88, R114, R138, R161, R165). The
coding, order and grouping of the fields are as log 12 to 16 read it; that the cut lists' report carries the next tag and
the line's report the next lot number as they will be issued is log 32, the presence bytes of the class snapshot log 34, the
cancel mark of every current transfer log 35, and the place of the park timer's count log 36. -/
def Obligations.QueriesReportAndChangeNothing : Prop :=
  (∀ (s : State) (l : Link) (edit : Bool) (f : Frame),
     let number := f.byteAt 1
     let part := f.byteAt 2
     (Asks s l edit .vatQuery f → ∀ slot v, slotOf? (f.byteAt 0) = some slot → s.slotMap[slot] = some v →
       exec (.vatQuery l edit) s = .next (s.answered l edit f .done ((s.vatReport v).data 1 (v.val + 1) number))) ∧
     (Asks s l edit .queryVat f → f.byteAt 0 = 1 → ∀ v, vatOf? number = some v →
       exec (.queryVat l edit) s = .next (s.answered l edit f .done ((s.vatReport v).data 1 number part))) ∧
     (Asks s l edit .queryBank f → f.byteAt 0 = 2 → ∀ b, bankOf? number = some b →
       exec (.queryBank l edit) s = .next (s.answered l edit f .done ((s.bankReport b).data 2 number part))) ∧
     (Asks s l edit .queryCarriage f → f.byteAt 0 = 3 → ∀ c, carriageOf? number = some c →
       exec (.queryCarriage l edit) s = .next (s.answered l edit f .done ((s.carriageReport c).data 3 number part))) ∧
     (Asks s l edit .queryLine f → f.byteAt 0 = 4 → number = 0 →
       exec (.queryLine l edit) s = .next (s.answered l edit f .done (s.lineReport.data 4 0 part))) ∧
     (Asks s l edit .queryLotList f → f.byteAt 0 = 5 → number = 0 →
       exec (.queryLotList l edit) s = .next (s.answered l edit f .done (s.lotListReport.data 5 0 part))) ∧
     (Asks s l edit .queryCutLists f → f.byteAt 0 = 6 → number = 0 →
       exec (.queryCutLists l edit) s = .next (s.answered l edit f .done (s.cutListsReport.data 6 0 part))) ∧
     (Asks s l edit .queryDumpLists f → f.byteAt 0 = 7 → number = 0 →
       exec (.queryDumpLists l edit) s = .next (s.answered l edit f .done (s.dumpListsReport.data 7 0 part))) ∧
     (Asks s l edit .queryEarlyWindow f → f.byteAt 0 = 8 → number = 0 →
       exec (.queryEarlyWindow l edit) s = .next (s.answered l edit f .done (s.windowReport.data 8 0 part)))) ∧
  (∀ (r : Report) (subject number part : Nat), r.data subject number part =
     [.one subject, .one number, .one part, .one (1 + (r.items.length + r.perPart - 1) / r.perPart)] ++
       if part = 0 then r.head else ((r.items.drop ((part - 1) * r.perPart)).take r.perPart).flatten) ∧
  (∀ (s : State) (v : Vat), let r := s.vat v
     s.vatReport v =
       { head :=
           [.one (v.val + 1), .one r.service.code, .one r.stage.code, .oneOrZero (r.slot.map fun n => n.val + 1),
             .mark r.held, .mark r.stepMode, .one r.stepPending.code, .mark r.early, .mark r.waste, .mark r.declared,
             .twoIf r.batch, .oneIf (r.recipe.map Fin.val), .twoIf (r.snapshot.map ClassTimes.firmMin),
             .twoIf (r.snapshot.map ClassTimes.firmMax), .twoIf (r.snapshot.map ClassTimes.healMin),
             .twoIf (r.snapshot.map ClassTimes.healMax), .twoOrZero r.target, .two r.filled,
             .oneOrZero (r.carriage.map fun n => n.val + 1), .twoOrZero r.lot],
         items := [[.timeIf r.setTime, .timeIf r.cutOpen, .timeIf r.cutClose, .timeIf r.cutDone, .timeIf r.healMin,
           .timeIf r.healMax]],
         perPart := 1 }) ∧
  (∀ (s : State) (b : Bank), let k := s.bank b
     let first := if b = 0 then 1 else s.settings.zoneEnds[b - 1] + 1
     let last := s.settings.zoneEnds[b]
     let zone (n : Nat) : Option Nat := if first ≤ last then some n else none
     let parkState : Nat :=
       if k.park.isSome then 1 else if k.state = .parked then if k.parkDrain = some true then 2 else 3 else 4
     let elapsed : Option Nat := (k.flush.orElse fun _ => k.rinse).map fun t => t.count
     s.bankReport b =
       { head :=
           [.one (b.val + 1), .oneOrZero (zone first), .oneOrZero (zone last), .one k.state.code,
             .oneOrZero (k.faultCause.map BankFaultCause.code), .oneOrZero (k.path.map fun v => v.val + 1),
             .twoIf k.pathOpen, .oneOrZero (k.closeCause.map CloseCause.code),
             .oneOrZero (k.closePhase.map ClosePhase.code), .oneOrZero (k.current.map fun c => c.entry.vat.val + 1),
             .oneOrZero (k.current.map fun c => c.entry.kind.code), .twoOrZero (k.current.map fun c => c.entry.target),
             .twoIf (k.current.map fun c => c.entry.volume), .oneIf (k.current.map fun c => c.entry.resumed.toNat),
             .oneOrZero (k.current.map fun c => c.phase.code), .oneIf (k.current.map fun c => c.cancel.toNat),
             .one k.list.length, .mark k.rinsePending, .mark k.rinseOverdue, .one parkState, .twoIf k.park,
             .mark s.frozen.banks, .oneOrZero (k.startPhase.map StartPhase.code),
             .oneIf (if k.startPhase = some .flush then k.flushesDone else none), .twoIf elapsed, .two k.rinseCount,
             .mark (decide (s.settings.rinseInterval ≠ 0 ∧ k.state ≠ .parked ∧ k.state ≠ .faulted))],
         items := k.list.map fun e => [.one (e.vat.val + 1), .one e.kind.code, .two e.target, .two e.volume, .mark e.resumed],
         perPart := 6 }) ∧
  (∀ (s : State) (c : Carriage), let k := s.carriage c
     let left : Option Nat := (k.start.orElse fun _ => k.slice).map fun t => t.limit - t.count
     s.carriageReport c =
       { head :=
           [.one s.settings.reach[c].low, .one s.settings.reach[c].high, .one k.state.code, .mark k.blocked,
             .oneOrZero (k.faultCause.map CarriageFaultCause.code), .time k.freeSince, .one k.missed,
             .oneOrZero (k.vat.map fun v => v.val + 1),
             .oneOrZero ((k.vat.bind fun v => (s.vat v).slot).map fun n => n.val + 1), .oneOrZero k.tag,
             .timeIf k.orderedAt, .timeIf k.startedAt, .twoIf left, .mark s.frozen.carriages, .mark s.routinePause],
         items := [], perPart := 1 }) ∧
  (∀ s : State,
     s.cutListsReport =
       { head := [.one s.urgent.length, .one s.openList.length, .one s.tagToIssue],
         items := (s.urgent ++ s.openList).map fun e =>
           [.one (e.vat.val + 1), .oneOrZero (e.slot.map fun n => n.val + 1), .timeIf e.cutClose, .time e.joined,
             .mark (s.vat e.vat).held],
         perPart := 3 } ∧
     (let k := s.line
      let lot := k.current.bind s.findLot
      let left : Option Nat := (k.start.orElse fun _ => k.duration).map fun t => t.limit - t.count
      s.lineReport =
        { head :=
            [.one k.state.code, .oneOrZero (k.faultCause.map LineFaultCause.code), .time k.freeSince, .twoOrZero k.current,
              .oneOrZero (lot.map fun x => x.vat.val + 1),
              .oneOrZero ((lot.bind fun x => x.slot).map fun n => n.val + 1), .oneOrZero (lot.map fun x => x.kind.code),
              .timeIf k.orderedAt, .timeIf k.startedAt, .twoIf left, .mark k.mouldsLow, .mark s.frozen.line,
              .one s.lots.length, .two s.lotToIssue],
          items := [], perPart := 1 }) ∧
     s.lotListReport =
       { head := [.one s.lots.length],
         items := s.lots.map fun x =>
           [.two x.number, .one (x.vat.val + 1), .oneOrZero (x.slot.map fun n => n.val + 1), .twoOf x.batch,
             .one x.kind.code, .mark x.early, .two x.expected, .twoIf x.received, .mark x.short, .one x.state.code,
             .time x.granted],
         perPart := 2 } ∧
     s.dumpListsReport =
       { head := [.one s.lateList.length, .one s.routine.length],
         items := (s.lateList ++ s.routine).map fun e =>
           [.one (e.vat.val + 1), .oneOrZero (e.slot.map fun n => n.val + 1), .one e.kind.code, .mark e.early,
             .time e.joined, .mark (s.vat e.vat).held],
         perPart := 4 } ∧
     s.windowReport =
       { head := [.one s.window.length] ++ (s.window.flatMap fun d => [.two d.lot, .mark d.early]) ++
           [.mark (!s.allowanceInUse)],
         items := [], perPart := 1 })

/-! ### The Cut link -/

/-- An order tag that no carriage record holds is answered LATE when it stands in the late-tag set and TAG otherwise; a
standing tag whose carriage is in the wrong state is answered STAGE; nothing else changes (R98). -/
def Obligations.TagsAreMatched : Prop :=
  ∀ (s : State) (l : Link) (edit : Bool) (f : Frame) (r : Request),
    r = .cutStarted ∨ r = .cutDone ∨ r = .cutRefused → Asks s l edit r f →
    (f.byteAt 0 = 0 → exec (.ofRequest l edit r) s = .next (s.answered l edit f .range [])) ∧
    (f.byteAt 0 ≠ 0 → (∀ c : Carriage, (s.carriage c).tag ≠ some (f.byteAt 0)) →
      (f.byteAt 0 ∈ s.lateTags → exec (.ofRequest l edit r) s = .next (s.answered l edit f .late [])) ∧
      (f.byteAt 0 ∉ s.lateTags → exec (.ofRequest l edit r) s = .next (s.answered l edit f .tag []))) ∧
    (∀ c, f.byteAt 0 ≠ 0 → s.standing? (f.byteAt 0) = some c →
      ((r = .cutDone ∧ (s.carriage c).state = .ordered) ∨ (r ≠ .cutDone ∧ (s.carriage c).state ≠ .ordered) →
        exec (.ofRequest l edit r) s = .next (s.answered l edit f .stage [])))

/-- CUT STARTED for the tag of an ORDERED carriage starts the cut: the start timer stops, the slice timer starts, missed
starts becomes 0 and the vat becomes CUTTING (R35, R99).
CUT DONE ends the cut: DONE in CUTTING, where the carriage becomes FREE now and the arbiter looks, and DONE-LATE in
FAULTED, which stays. The vat becomes WORKING with its heal times from its snapshot, and a heal-min already reached is
applied straight after (R2, R36, R105; log 30). Make-clock sums lie in the clock's range (log 8). -/
def Obligations.CutsStartAndEnd : Prop :=
  (∀ (s : State) (l : Link) (edit : Bool) (f : Frame) (c : Carriage) (v : Vat), Asks s l edit .cutStarted f →
     f.byteAt 0 ≠ 0 → s.standing? (f.byteAt 0) = some c → (s.carriage c).state = .ordered →
     (s.carriage c).vat = some v →
     exec (.cutStarted l edit) s = .next
       (((s.answered l edit f .done []).modCarriage c fun k =>
           { k with state := .cutting, startedAt := some s.clock, missed := 0, start := none,
                    slice := some ⟨0, s.settings.cutSliceLimit⟩ }).modVat v fun r => { r with stage := .cutting })) ∧
  (∀ (s : State) (l : Link) (edit : Bool) (f : Frame) (c : Carriage) (v : Vat) (x : ClassTimes),
     Asks s l edit .cutDone f → f.byteAt 0 ≠ 0 → s.standing? (f.byteAt 0) = some c → (s.carriage c).vat = some v →
     (s.vat v).snapshot = some x → s.clock + x.healMin < Config.clockRange → s.clock + x.healMax < Config.clockRange →
     let worked : VatRecord → VatRecord := fun r =>
       { r with stage := .working, carriage := none, cutDone := some s.clock, healMin := some (s.clock + x.healMin),
                healMax := some (s.clock + x.healMax) }
     ((s.carriage c).state = .cutting → exec (.cutDone l edit) s = .next
       (((((s.answered l edit f .done []).modCarriage c fun k =>
           { k with state := .free, freeSince := s.clock, vat := none, tag := none, orderedAt := none, startedAt := none,
                    slice := none }).modVat v worked).cutLook).healMinAtOnce v)) ∧
     ((s.carriage c).state = .faulted → exec (.cutDone l edit) s = .next
       ((((s.answered l edit f .doneLate []).modCarriage c fun k =>
           { k with vat := none, tag := none, orderedAt := none, startedAt := none, slice := none }).modVat v
             worked).healMinAtOnce v)))

/-- CUT REFUSED, and CARRIAGE BLOCK of an ORDERED carriage, withdraw its order without a strike: the carriage is FREE now,
the vat's carriage field is absent and its entry is back at the head of the list R29 gives, and ORDER WITHDRAWN is raised;
the arbiter then looks. BLOCK in any other state sets the mark alone (R34, R100, R102, R107).
An entry that returns goes to the head of URGENT when cut-close is absent or within the urgency margin, else to the head of
OPEN; it carries the vat, its slot, its cut-close and the make clock (R29, R34). -/
def Obligations.RefusalsAndBlocksWithdrawOrders : Prop :=
  (∀ (s : State) (l : Link) (edit : Bool) (f : Frame) (c : Carriage),
     let withdrawn (t : State) (v : Vat) (cause : WithdrawCause) : State :=
       ((((t.modCarriage c fun k =>
         { k with state := .free, freeSince := s.clock, vat := none, tag := none, orderedAt := none, start := none }).modVat
           v fun r => { r with carriage := none }).returnCut v).raise .cut
             (.orderWithdrawn c (s.carriage c).tag (some v) (s.vat v).slot cause)).cutLook
     (∀ v, Asks s l edit .cutRefused f → f.byteAt 0 ≠ 0 → s.standing? (f.byteAt 0) = some c →
       (s.carriage c).state = .ordered → (s.carriage c).vat = some v →
       exec (.cutRefused l edit) s = .next (withdrawn (s.answered l edit f .done []) v .refused)) ∧
     (∀ v, Asks s l edit .carriageBlock f → carriageOf? (f.byteAt 0) = some c → (s.carriage c).state = .ordered →
       (s.carriage c).vat = some v →
       exec (.carriageBlock l edit) s = .next
         (withdrawn ((s.answered l edit f .done []).modCarriage c fun k => { k with blocked := true }) v .blocked)) ∧
     (Asks s l edit .carriageBlock f → carriageOf? (f.byteAt 0) = some c → (s.carriage c).state ≠ .ordered →
       exec (.carriageBlock l edit) s = .next
         ((s.answered l edit f .done []).modCarriage c fun k => { k with blocked := true }))) ∧
  (∀ (s : State) (v : Vat),
     let e : CutEntry := ⟨v, (s.vat v).slot, (s.vat v).cutClose, s.clock⟩
     ((s.vat v).cutClose = none → s.returnCut v = { s with urgent := e :: s.urgent }) ∧
     (∀ x, (s.vat v).cutClose = some x → x ≤ s.clock + s.settings.urgencyMargin →
       s.returnCut v = { s with urgent := e :: s.urgent }) ∧
     (∀ x, (s.vat v).cutClose = some x → s.clock + s.settings.urgencyMargin < x →
       s.returnCut v = { s with openList := e :: s.openList }))

/-- CARRIAGE UNBLOCK, ROUTINE PAUSE and ROUTINE RESUME set or clear their marks; a mark that is cleared makes the arbiter
look (R93, R107, R108). MOULDS LOW sets moulds-low, and MOULDS READY clears it; when it clears a set mark the arbiter looks
(R118, R133). An UNBLOCK of a carriage not blocked changes nothing (R107). That a ROUTINE RESUME or a MOULDS READY
which finds its mark clear makes no look, so that nothing changes, is the model's reading (log 31). -/
def Obligations.StationMarksSetAndClear : Prop :=
  (∀ (s : State) (l : Link) (edit : Bool) (f : Frame),
     let t := s.answered l edit f .done []
     (∀ c, Asks s l edit .carriageUnblock f → carriageOf? (f.byteAt 0) = some c →
       ((s.carriage c).blocked = true → exec (.carriageUnblock l edit) s =
         .next (t.modCarriage c fun k => { k with blocked := false }).cutLook) ∧
       ((s.carriage c).blocked = false → exec (.carriageUnblock l edit) s = .next t)) ∧
     (Asks s l edit .routinePause f → exec (.routinePause l edit) s = .next { t with routinePause := true }) ∧
     (Asks s l edit .routineResume f →
       (s.routinePause = true → exec (.routineResume l edit) s = .next (State.cutLook { t with routinePause := false })) ∧
       (s.routinePause = false → exec (.routineResume l edit) s = .next t))) ∧
  (∀ (s : State) (l : Link) (edit : Bool) (f : Frame),
     let t := s.answered l edit f .done []
     (Asks s l edit .mouldsLow f →
       exec (.mouldsLow l edit) s = .next (t.modLine fun k => { k with mouldsLow := true })) ∧
     (Asks s l edit .mouldsReady f →
       (s.line.mouldsLow = true →
         exec (.mouldsReady l edit) s = .next (t.modLine fun k => { k with mouldsLow := false }).lineLook) ∧
       (s.line.mouldsLow = false → exec (.mouldsReady l edit) s = .next t)))

/-- An entry is eligible for a carriage exactly when the carriage is FREE and not blocked, the vat lies within its reach,
and the vat is not held, by the records and settings as they stand (R92). -/
def Obligations.EligibleForCarriage : Prop :=
  ∀ (s : State) (e : CutEntry) (c : Carriage), s.cutEligible e c = true ↔
    (s.carriage c).state = .free ∧ (s.carriage c).blocked = false ∧
      (s.settings.reachOf c).low ≤ e.vat.val + 1 ∧ e.vat.val + 1 ≤ (s.settings.reachOf c).high ∧
      (s.vat e.vat).held = false

/-- A look of the carriage arbiter changes no vat but in its carriage field, and a carriage whose record it changes was FREE
and not blocked and is ORDERED for a vat that is not held and lies within its reach; it grants nothing while carriages are
frozen, the Cut station is ABSENT or its queue is full (R14, R92 to R96). -/
def Obligations.CutGrantsAreSafe : Prop :=
  ∀ s : State,
    (s.frozen.carriages = true ∨ s.present .cut = false ∨ (s.link .cut).hasRoom = false → s.cutLook = s) ∧
    (∀ v : Vat, { s.cutLook.vat v with carriage := (s.vat v).carriage } = s.vat v) ∧
    (∀ c : Carriage, s.cutLook.carriage c ≠ s.carriage c →
      (s.carriage c).state = .free ∧ (s.carriage c).blocked = false ∧ (s.cutLook.carriage c).state = .ordered ∧
      (s.cutLook.carriage c).orderedAt = some s.clock ∧
      (s.cutLook.carriage c).start = some ⟨0, s.settings.cutStartLimit⟩ ∧
      ∃ v : Vat, (s.cutLook.carriage c).vat = some v ∧ (s.vat v).held = false ∧
        (s.settings.reachOf c).low ≤ v.val + 1 ∧ v.val + 1 ≤ (s.settings.reachOf c).high) ∧
    s.cutLook.settings = s.settings ∧ s.cutLook.banks = s.banks ∧ s.cutLook.line = s.line ∧ s.cutLook.lots = s.lots ∧
    s.cutLook.slotMap = s.slotMap ∧ s.cutLook.clock = s.clock

/-- One grant: the head-most eligible URGENT entry, else, while routine pause is off, the head-most eligible OPEN entry, to
the one carriage it is eligible for, or of two the one FREE for longer, carriage 1 when both are since the same time; the
tag issued stands on no carriage (R94 to R97). There is an entry to grant whenever one is eligible.
A look grants once, and after a grant once more when one is possible (R93).
What a grant does: the entry leaves its list, the carriage is ORDERED for its vat with the tag and its start timer, the vat
names the carriage, the tag counter moves on, the tag leaves the late-tag set, and CUT ORDER joins the Cut link's queue;
nothing else changes (R34, R96, R97). The last grant is kept for R109 (log 20). Make-clock sums lie in the clock's range
(log 8). -/
def Obligations.CutGrantChoosesHeadMost : Prop :=
  (∀ (s : State) (x : CutChoice) (c : Carriage), s.frozen.carriages = false → s.present .cut = true →
     (s.link .cut).hasRoom = true → s.chooseCut = some x → s.carriageFor x.entry = some c →
     s.grantCut = some (s.applyCutGrant x c) ∧
     (x.list = .urgent → ∃ before behind, s.urgent = before ++ x.entry :: behind ∧ x.rest = before ++ behind ∧
       ∀ e ∈ before, ∀ c', s.cutEligible e c' = false) ∧
     (x.list = .openList → s.routinePause = false ∧ (∀ e ∈ s.urgent, ∀ c', s.cutEligible e c' = false) ∧
       ∃ before behind, s.openList = before ++ x.entry :: behind ∧ x.rest = before ++ behind ∧
         ∀ e ∈ before, ∀ c', s.cutEligible e c' = false) ∧
     s.cutEligible x.entry c = true ∧
     (∀ c', s.cutEligible x.entry c' = true → (s.carriage c).freeSince ≤ (s.carriage c').freeSince ∧
       ((s.carriage c).freeSince = (s.carriage c').freeSince → c ≤ c')) ∧
     (1 ≤ s.tagCounter → s.tagCounter ≤ 255 →
       1 ≤ s.tagToIssue ∧ s.tagToIssue ≤ 255 ∧ ∀ c', (s.carriage c').tag ≠ some s.tagToIssue)) ∧
  (∀ s : State,
     (∀ x, s.chooseCut = some x → ∃ c, s.carriageFor x.entry = some c) ∧
     (s.chooseCut = none → (∀ e ∈ s.urgent, ∀ c, s.cutEligible e c = false) ∧
       (s.routinePause = true ∨ ∀ e ∈ s.openList, ∀ c, s.cutEligible e c = false))) ∧
  (∀ s : State, (s.grantCut = none → s.cutLook = s) ∧ (∀ t, s.grantCut = some t →
     (t.grantCut = none → s.cutLook = t) ∧ ∀ u, t.grantCut = some u → s.cutLook = u)) ∧
  (∀ (s : State) (x : CutChoice) (c : Carriage), (s.link .cut).hasRoom = true →
     s.clock + s.settings.cutStartLimit < Config.clockRange →
     let tag := s.tagToIssue
     let t := s.applyCutGrant x c
     t = { s with carriages := t.carriages, vats := t.vats, urgent := t.urgent, openList := t.openList,
                  tagCounter := if tag < 255 then tag + 1 else 1, lateTags := s.lateTags.filter fun n => decide (n ≠ tag),
                  lastGranted := some c, links := t.links } ∧
     t.carriage c = { s.carriage c with
       state := .ordered, vat := some x.entry.vat, tag := some tag, orderedAt := some s.clock, startedAt := none,
       start := some ⟨0, s.settings.cutStartLimit⟩ } ∧
     (∀ c', c' ≠ c → t.carriage c' = s.carriage c') ∧
     t.vat x.entry.vat = { s.vat x.entry.vat with carriage := some c } ∧
     (∀ v, v ≠ x.entry.vat → t.vat v = s.vat v) ∧
     (x.list = .urgent → t.urgent = x.rest ∧ t.openList = s.openList) ∧
     (x.list = .openList → t.openList = x.rest ∧ t.urgent = s.urgent) ∧
     t.link .cut = { s.link .cut with queue := (s.link .cut).queue ++ [.notice (.cutOrder c tag x.entry.slot x.entry.vat
       x.entry.cutClose x.list (s.clock + s.settings.cutStartLimit))] } ∧
     (∀ l, l ≠ .cut → t.link l = s.link l) ∧
     ((∀ c', (s.carriage c').tag ≠ some s.tagCounter) → tag = s.tagCounter))

/-! ### The Press link -/

/-- DUMP STARTED for the ORDERED lot of an ORDERED line starts the dump: the start timer stops, the duration timer starts,
line and lot are RUNNING and the vat is DUMPING (R42, R123, R124).
DUMP DONE for the RUNNING lot: DONE while the line is RUNNING, which becomes FREE, DONE-LATE while it is FAULTED, which
stays. A WASTE lot leaves the list; another presses with its received volume and its short mark, SHORT LOT being raised when
it is short; the completed dump joins the early window; the vat is washed; the arbiter looks (R43, R128, R129, R135).
A lot is short exactly when the difference of the two volumes, in either direction, times 100, exceeds the tolerance
times the expected volume (R129).
A completed dump joins the early window's tail, and of nine the head leaves (R135).
DUMP STARTED, DUMP DONE and DUMP REFUSED for a number that no lot of the list has are answered TAG, and for a lot or a line
in any other state STAGE (R123). -/
def Obligations.DumpsStartAndEnd : Prop :=
  (∀ (s : State) (l : Link) (edit : Bool) (f : Frame) (x : Lot), Asks s l edit .dumpStarted f →
     1 ≤ f.pairAt 0 → f.pairAt 0 ≤ 4095 → s.findLot (f.pairAt 0) = some x → x.state = .ordered →
     s.line.state = .ordered →
     exec (.dumpStarted l edit) s = .next
       ((((s.answered l edit f .done []).modLine fun k =>
           { k with state := .running, startedAt := some s.clock, start := none,
                    duration := some ⟨0, s.settings.dumpDurationLimit⟩ }).modLot x.number fun y =>
             { y with state := .running }).modVat x.vat fun r => { r with stage := .dumping })) ∧
  ((∀ (s : State) (l : Link) (edit : Bool) (f : Frame) (x : Lot), Asks s l edit .dumpDone f →
      1 ≤ f.pairAt 0 → f.pairAt 0 ≤ 4095 → f.pairAt 2 ≤ 40000 → s.findLot (f.pairAt 0) = some x → x.state = .running →
      let received := f.pairAt 2
      let short := isShort s.settings.volumeTolerance x.expected received
      let finish (t : State) : State :=
        if x.kind = .waste then { t with lots := withoutLot s.lots x.number }
        else
          let u := t.modLot x.number fun y =>
            { y with state := .pressing, received := some received,
                     short := isShort s.settings.volumeTolerance y.expected received }
          if short then u.raise .console (.shortLot x.number x.vat x.slot x.batch x.kind x.expected received) else u
      let rest (t : State) : State :=
        ({ finish t with window := joinWindow s.window ⟨x.number, x.early⟩ }.queueWash x.vat).lineLook
      (s.line.state = .running → exec (.dumpDone l edit) s = .next (rest ((s.answered l edit f .done []).modLine fun k =>
        { k with state := .free, freeSince := s.clock, current := none, orderedAt := none, startedAt := none, start := none,
                 duration := none }))) ∧
      (s.line.state = .faulted →
        exec (.dumpDone l edit) s = .next (rest ((s.answered l edit f .doneLate []).modLine fun k =>
          { k with current := none, orderedAt := none, startedAt := none, start := none, duration := none })))) ∧
   (∀ tolerance expected received : Nat, isShort tolerance expected received = true ↔
      (received ≤ expected ∧ tolerance * expected < (expected - received) * 100) ∨
      (expected ≤ received ∧ tolerance * expected < (received - expected) * 100))) ∧
  (∀ (s : State) (l : Link) (edit : Bool) (f : Frame) (r : Request),
     r = .dumpStarted ∨ r = .dumpDone ∨ r = .dumpRefused → Asks s l edit r f → fieldsInRange s.settings r f = true →
     (s.findLot (f.pairAt 0) = none → exec (.ofRequest l edit r) s = .next (s.answered l edit f .tag [])) ∧
     (∀ x, s.findLot (f.pairAt 0) = some x →
       (r = .dumpDone ∧ ¬ (x.state = .running ∧ (s.line.state = .running ∨ s.line.state = .faulted))) ∨
         (r ≠ .dumpDone ∧ ¬ (x.state = .ordered ∧ s.line.state = .ordered)) →
       exec (.ofRequest l edit r) s = .next (s.answered l edit f .stage []))) ∧
  (∀ (w : List CompletedDump) (d : CompletedDump), (w.length < 8 → joinWindow w d = w ++ [d]) ∧
     (∀ x rest, w = x :: rest → w.length = 8 → joinWindow w d = rest ++ [d]))

/-- LOT CLOSED removes a PRESSING lot, and ABANDON LOT the RUNNING current lot of a FAULTED line, whose vat is then washed;
the arbiter then looks. In other states the reply is STAGE, TAG for a lot not in the list, and RANGE for a number that is
not 1 to 4095 (R43, R130, R132).
DUMP REFUSED withdraws the order of the ORDERED lot: the lot leaves the list, the line is FREE now, the vat's lot field
is absent and its entry is back at the head of the list R39 gives with its kind and early mark, and DUMP WITHDRAWN is
raised; the arbiter then looks (R41, R125).
An entry that returns goes to the head of ROUTINE when it is WASTE or its vat's heal-max is not reached, else to the head of
LATE; it carries the vat, its slot, its kind and early mark and the make clock (R39, R41). A vat that is washed becomes WASHING
with no lot, and its WASH entry of the wash volume joins the list of its zone's bank (R43). -/
def Obligations.LotsLeaveTheList : Prop :=
  (∀ (s : State) (l : Link) (edit : Bool) (f : Frame),
    (f.pairAt 0 = 0 ∨ 4095 < f.pairAt 0 →
     (Asks s l edit .lotClosed f → exec (.lotClosed l edit) s = .next (s.answered l edit f .range [])) ∧
     (Asks s l edit .abandonLot f → exec (.abandonLot l edit) s = .next (s.answered l edit f .range []))) ∧
    (1 ≤ f.pairAt 0 → f.pairAt 0 ≤ 4095 →
     (Asks s l edit .lotClosed f →
       (s.findLot (f.pairAt 0) = none → exec (.lotClosed l edit) s = .next (s.answered l edit f .tag [])) ∧
       ∀ x, s.findLot (f.pairAt 0) = some x →
         (x.state = .pressing → exec (.lotClosed l edit) s =
           .next (State.lineLook { s.answered l edit f .done [] with lots := withoutLot s.lots x.number })) ∧
         (x.state ≠ .pressing → exec (.lotClosed l edit) s = .next (s.answered l edit f .stage []))) ∧
     (Asks s l edit .abandonLot f →
       (s.findLot (f.pairAt 0) = none → exec (.abandonLot l edit) s = .next (s.answered l edit f .tag [])) ∧
       ∀ x, s.findLot (f.pairAt 0) = some x →
         (s.line.state = .faulted → s.line.current = some x.number → x.state = .running →
           exec (.abandonLot l edit) s = .next
             (({ s.answered l edit f .done [] with
                 lots := withoutLot s.lots x.number,
                 line := { s.line with current := none, orderedAt := none, startedAt := none, start := none,
                                       duration := none } }.queueWash x.vat).lineLook)) ∧
         (¬ (s.line.state = .faulted ∧ s.line.current = some x.number ∧ x.state = .running) →
           exec (.abandonLot l edit) s = .next (s.answered l edit f .stage []))))) ∧
  (∀ (s : State) (l : Link) (edit : Bool) (f : Frame) (x : Lot), Asks s l edit .dumpRefused f →
     1 ≤ f.pairAt 0 → f.pairAt 0 ≤ 4095 → s.findLot (f.pairAt 0) = some x → x.state = .ordered →
     s.line.state = .ordered →
     exec (.dumpRefused l edit) s = .next
       ((((({ s.answered l edit f .done [] with lots := withoutLot s.lots x.number }.modLine fun k =>
           { k with state := .free, freeSince := s.clock, current := none, orderedAt := none, startedAt := none,
                    start := none, duration := none }).modVat x.vat fun r => { r with lot := none }).returnDump x.vat
             (if x.kind = LotKind.waste then EntryKind.waste else EntryKind.normal) x.early).raise .press
               (.dumpWithdrawn x.number x.vat x.slot .refused)).lineLook)) ∧
  (∀ (s : State) (v : Vat) (early : Bool),
     (s.returnDump v .waste early = { s with routine := ⟨v, (s.vat v).slot, .waste, early, s.clock⟩ :: s.routine }) ∧
     ((∀ x, (s.vat v).healMax = some x → s.clock < x) → s.returnDump v .normal early =
       { s with routine := ⟨v, (s.vat v).slot, .normal, early, s.clock⟩ :: s.routine }) ∧
     (∀ x, (s.vat v).healMax = some x → x ≤ s.clock → s.returnDump v .normal early =
       { s with lateList := ⟨v, (s.vat v).slot, .normal, early, s.clock⟩ :: s.lateList })) ∧
  (∀ (s : State) (v : Vat), s.queueWash v = (s.modVat v fun r => { r with stage := .washing, lot := none }).joinTransfer
     (s.bankOf v) ⟨v, .wash, s.settings.washVolume, 0, false⟩)

/-- A look of the curd line arbiter changes nothing unless the line is FREE and not frozen, the Press station is PRESENT with
room in its queue and the list holds fewer than 12 lots; a grant takes an entry whose vat is not held, from LATE first, and
from ROUTINE a NORMAL entry only while moulds-low is off; the line is then ORDERED for the new lot (R14, R119, R120).
When those conditions hold, a grant is made: of the head-most LATE entry whose vat is not held, else of the head-most such
ROUTINE entry, WASTE or with moulds-low off. The entry leaves its list, the lot joins the lot list with the number in turn,
the line is ORDERED with its start timer, the lot counter moves on, the vat names the lot, and DUMP ORDER joins the Press
link's queue; nothing else changes (R41, R119 to R122). The number issued is 1 to 4095 and no lot of the list has it. Make-clock
sums lie in the clock's range (log 8). -/
def Obligations.LineGrantsAreSafe : Prop :=
  (∀ s : State,
     (s.line.state ≠ .free ∨ s.frozen.line = true ∨ s.present .press = false ∨ (s.link .press).hasRoom = false ∨
       12 ≤ s.lots.length → s.lineLook = s) ∧
     (s.lineLook.line ≠ s.line → ∃ (e : DumpEntry) (x : Lot),
       (s.vat e.vat).held = false ∧
       (e ∈ s.lateList ∨ (e ∈ s.routine ∧ (e.kind = .waste ∨ s.line.mouldsLow = false) ∧
         ∀ e' ∈ s.lateList, (s.vat e'.vat).held = true)) ∧
       s.lineLook.lots = s.lots ++ [x] ∧ x.vat = e.vat ∧ x.slot = e.slot ∧ x.early = e.early ∧ x.state = .ordered ∧
       x.expected = (s.vat e.vat).filled ∧ x.batch = (s.vat e.vat).batch ∧ x.granted = s.clock ∧
       (x.kind = .late ↔ s.lateList ≠ s.lineLook.lateList) ∧
       s.lineLook.line.state = .ordered ∧ s.lineLook.line.current = some x.number ∧
       s.lineLook.line.start = some ⟨0, s.settings.dumpStartLimit⟩ ∧
       (s.lineLook.vat e.vat).lot = some x.number) ∧
     (∀ v : Vat, { s.lineLook.vat v with lot := (s.vat v).lot } = s.vat v) ∧
     s.lineLook.settings = s.settings ∧ s.lineLook.banks = s.banks ∧ s.lineLook.carriages = s.carriages ∧
     s.lineLook.slotMap = s.slotMap ∧ s.lineLook.clock = s.clock) ∧
  (∀ s : State, s.line.state = .free → s.frozen.line = false → (∃ n, (s.link .press).presence = some n) →
     (s.link .press).hasRoom = true → s.lots.length < 12 →
     s.clock + s.settings.dumpStartLimit < Config.clockRange →
     let n := s.lotToIssue
     let granted (e : DumpEntry) (kind : LotKind) (u : State) : State :=
       ({ u with
          lots := s.lots ++ [(⟨n, e.vat, e.slot, (s.vat e.vat).batch, kind, e.early, (s.vat e.vat).filled, none, false,
            .ordered, s.clock⟩ : Lot)],
          line := { s.line with
            state := .ordered, current := some n, orderedAt := some s.clock, startedAt := none,
            start := some ⟨0, s.settings.dumpStartLimit⟩,
            lotCounter := if n < 4095 then n + 1 else 1 } }.modVat e.vat fun r => { r with lot := some n }).raise .press
        (.dumpOrder n e.slot e.vat (s.vat e.vat).batch kind e.early (s.vat e.vat).filled
          (s.clock + s.settings.dumpStartLimit))
     (∀ before e behind, s.lateList = before ++ e :: behind → (∀ y ∈ before, (s.vat y.vat).held = true) →
       (s.vat e.vat).held = false → s.lineLook = granted e .late { s with lateList := before ++ behind }) ∧
     ((∀ y ∈ s.lateList, (s.vat y.vat).held = true) →
       (∀ before e behind, s.routine = before ++ e :: behind →
         (∀ y ∈ before, (s.vat y.vat).held = true ∨ (y.kind = .normal ∧ s.line.mouldsLow = true)) →
         (s.vat e.vat).held = false →
         (e.kind = .waste → s.lineLook = granted e .waste { s with routine := before ++ behind }) ∧
         (e.kind = .normal → s.line.mouldsLow = false →
           s.lineLook = granted e .normal { s with routine := before ++ behind })) ∧
       ((∀ y ∈ s.routine, (s.vat y.vat).held = true ∨ (y.kind = .normal ∧ s.line.mouldsLow = true)) →
         s.lineLook = s))) ∧
  (∀ s : State, s.lots.length ≤ 12 → 1 ≤ s.line.lotCounter → s.line.lotCounter ≤ 4095 →
     1 ≤ s.lotToIssue ∧ s.lotToIssue ≤ 4095 ∧ (∀ x ∈ s.lots, x.number ≠ s.lotToIssue) ∧
     ((∀ x ∈ s.lots, x.number ≠ s.line.lotCounter) → s.lotToIssue = s.line.lotCounter))

/-! ### The Console link -/

/-- HOLD and RELEASE set and clear the held mark of the vat, in every stage; a mark already so is answered DONE with nothing
changed; a hold lets park timers start on the banks that list the vat, and a release makes the banks that list the vat and
both arbiters look (R13, R14, R83).
FREEZE sets or clears the mark of its class and is answered DONE whatever the mark held; turning a mark off makes the
owning block look, and a mark that stays as it is causes no look (R69, R110, R134, R167). -/
def Obligations.HoldReleaseAndFreeze : Prop :=
  (∀ (s : State) (l : Link) (edit : Bool) (f : Frame) (v : Vat), vatOf? (f.byteAt 0) = some v →
     let t := s.answered l edit f .done []
     (Asks s l edit .hold f →
       ((s.vat v).held = true → exec (.hold l edit) s = .next t) ∧
       ((s.vat v).held = false → exec (.hold l edit) s =
         .next ((t.modVat v fun r => { r with held := true }).parkLooks (s.banksListing v)))) ∧
     (Asks s l edit .release f →
       ((s.vat v).held = false → exec (.release l edit) s = .next t) ∧
       ((s.vat v).held = true → exec (.release l edit) s =
         .next ((t.modVat v fun r => { r with held := false }).bankLooks (fun e => decide (e.vat = v))
           (s.banksListing v)).cutLook.lineLook))) ∧
  (∀ (s : State) (l : Link) (edit : Bool) (f : Frame) (on : Bool), Asks s l edit .freeze f → f.byteAt 1 = on.toNat →
     let t := s.answered l edit f .done []
     (f.byteAt 0 = 1 → exec (.freeze l edit) s =
       .next (let u := { t with frozen := { s.frozen with banks := on } }
         if s.frozen.banks = true ∧ on = false then u.bankLooks (fun _ => false) allBanks else u)) ∧
     (f.byteAt 0 = 2 → exec (.freeze l edit) s =
       .next (let u := { t with frozen := { s.frozen with carriages := on } }
         if s.frozen.carriages = true ∧ on = false then u.cutLook else u)) ∧
     (f.byteAt 0 = 3 → exec (.freeze l edit) s =
       .next (let u := { t with frozen := { s.frozen with line := on } }
         if s.frozen.line = true ∧ on = false then u.lineLook else u)))

/-- STEP MODE on sets the mark alone; STEP MODE off clears it and performs the advance that waits, as STEP does, which
leaves step mode on; STEP with none waiting is STAGE. The advance takes a vat into the cut window or the dump queue, its
entry placed now, and the arbiter looks (R15, R31).
An entry that enters the cut window: at the URGENT tail when cut-close is absent or within the urgency margin, else in
OPEN immediately before the first entry whose vat's cut-open is later; the entry carries the vat, its slot, its cut-close
and the make clock (R29). -/
def Obligations.StepAdvancesAndEntriesArePlaced : Prop :=
  (∀ (s : State) (l : Link) (edit : Bool) (f : Frame) (v : Vat), vatOf? (f.byteAt 0) = some v →
     let t := s.answered l edit f .done []
     let off := t.modVat v fun r => { r with stepMode := false }
     let cut (u : State) := ((u.modVat v fun r => { r with stage := .cutWindow, stepPending := .nothing }).joinCut v).cutLook
     let dump (u : State) :=
       ((u.modVat v fun r => { r with stage := .dumpQueued, stepPending := .nothing }).joinDump v .normal false).lineLook
     (Asks s l edit .stepMode f → f.byteAt 1 = 1 →
       exec (.stepMode l edit) s = .next (t.modVat v fun r => { r with stepMode := true })) ∧
     (Asks s l edit .stepMode f → f.byteAt 1 = 0 →
       ((s.vat v).stepPending = .nothing → exec (.stepMode l edit) s = .next off) ∧
       ((s.vat v).stepPending = .cutOpen → exec (.stepMode l edit) s = .next (cut off)) ∧
       ((s.vat v).stepPending = .healMin → exec (.stepMode l edit) s = .next (dump off))) ∧
     (Asks s l edit .step f →
       ((s.vat v).stepPending = .nothing → exec (.step l edit) s = .next (s.answered l edit f .stage [])) ∧
       ((s.vat v).stepPending = .cutOpen → exec (.step l edit) s = .next (cut t)) ∧
       ((s.vat v).stepPending = .healMin → exec (.step l edit) s = .next (dump t)))) ∧
  (∀ (s : State) (v : Vat),
     let e : CutEntry := ⟨v, (s.vat v).slot, (s.vat v).cutClose, s.clock⟩
     ((s.vat v).cutClose = none → s.joinCut v = { s with urgent := s.urgent ++ [e] }) ∧
     (∀ x, (s.vat v).cutClose = some x → x ≤ s.clock + s.settings.urgencyMargin →
       s.joinCut v = { s with urgent := s.urgent ++ [e] }) ∧
     (∀ x, (s.vat v).cutClose = some x → s.clock + s.settings.urgencyMargin < x →
       ∃ before behind, s.openList = before ++ behind ∧ s.joinCut v = { s with openList := before ++ e :: behind } ∧
         (∀ y ∈ before, s.opensLater v y = false) ∧ ∀ y ∈ behind.head?, s.opensLater v y = true))

/-- DUMP EARLY: its checks in their order, and the accepted one: the early mark is set, the vat becomes DUMP-QUEUED and its
NORMAL entry with the early mark joins; the arbiter looks (R40).
The early-dump allowance is in use exactly when the early window holds an entry with the early mark, or a vat in
DUMP-QUEUED or DUMPING carries it (R136). -/
def Obligations.DumpEarlyQueuesVat : Prop :=
  (∀ (s : State) (l : Link) (edit : Bool) (f : Frame) (slot : Slot) (v : Vat), Asks s l edit .dumpEarly f →
     slotOf? (f.byteAt 0) = some slot → s.slotMap[slot] = some v →
     ((s.vat v).stage ≠ .working → exec (.dumpEarly l edit) s = .next (s.answered l edit f .stage [])) ∧
     ((s.vat v).stage = .working → (s.vat v).stepPending ≠ .nothing →
       exec (.dumpEarly l edit) s = .next (s.answered l edit f .stage [])) ∧
     ((s.vat v).stage = .working → (s.vat v).stepPending = .nothing → s.allowanceInUse = true →
       exec (.dumpEarly l edit) s = .next (s.answered l edit f .allowance [])) ∧
     ((s.vat v).stage = .working → (s.vat v).stepPending = .nothing → s.allowanceInUse = false →
       exec (.dumpEarly l edit) s = .next
         ((((s.answered l edit f .done []).modVat v fun r =>
           { r with early := true, stage := .dumpQueued, stepPending := .nothing }).joinDump v .normal true).lineLook))) ∧
  (∀ s : State, s.allowanceInUse = true ↔
     (∃ d ∈ s.window, d.early = true) ∨
     ∃ v : Vat, (s.vat v).early = true ∧ ((s.vat v).stage = .dumpQueued ∨ (s.vat v).stage = .dumping))

/-- RELEASE OVERSET: an OVERSET vat loses its cut-close, becomes CUT-WINDOW and joins the URGENT tail; the arbiter looks; in
any other stage the reply is STAGE, and for an unmapped slot UNMAPPED (R37).
DISCARD: accepted in the stages R45 gives, it removes a cut entry, releases the FAULTED carriage of a CUTTING vat, sets
the waste mark and puts a WASTE entry at the ROUTINE tail; the arbiter looks; in every other case the reply is STAGE, and
for an unmapped slot UNMAPPED (R45, R46, R106). -/
def Obligations.OversetVatsAreReleasedOrDiscarded : Prop :=
  (∀ (s : State) (l : Link) (edit : Bool) (f : Frame) (slot : Slot), Asks s l edit .releaseOverset f →
     slotOf? (f.byteAt 0) = some slot →
     (s.slotMap[slot] = none → exec (.releaseOverset l edit) s = .next (s.answered l edit f .unmapped [])) ∧
     ∀ v, s.slotMap[slot] = some v →
     ((s.vat v).stage ≠ .overset → exec (.releaseOverset l edit) s = .next (s.answered l edit f .stage [])) ∧
     ((s.vat v).stage = .overset → exec (.releaseOverset l edit) s = .next
       (State.cutLook { (s.answered l edit f .done []).modVat v fun r =>
           { r with stage := .cutWindow, stepPending := .nothing, cutClose := none } with
         urgent := s.urgent ++ [⟨v, (s.vat v).slot, none, s.clock⟩] }))) ∧
  (∀ (s : State) (l : Link) (edit : Bool) (f : Frame) (slot : Slot), Asks s l edit .discard f →
     slotOf? (f.byteAt 0) = some slot →
     (s.slotMap[slot] = none → exec (.discard l edit) s = .next (s.answered l edit f .unmapped [])) ∧
     ∀ v, s.slotMap[slot] = some v →
     let t := s.answered l edit f .done []
     let unlisted (u : State) : State :=
       { u with urgent := dropOne (fun e => decide (e.vat = v)) s.urgent,
                openList := dropOne (fun e => decide (e.vat = v)) s.openList }
     let queued (u : State) : State :=
       State.lineLook { u.modVat v fun r =>
           { r with stage := .dumpQueued, stepPending := .nothing, waste := true } with
         routine := s.routine ++ [⟨v, (s.vat v).slot, .waste, false, s.clock⟩] }
     ((s.vat v).stage = .charged ∨ (s.vat v).stage = .setting ∨ (s.vat v).stage = .working ∨ (s.vat v).stage = .overset ∨
       ((s.vat v).stage = .cutWindow ∧ (s.vat v).carriage = none) →
       exec (.discard l edit) s = .next (queued (unlisted t))) ∧
     (∀ c, (s.vat v).stage = .cutting → (s.vat v).carriage = some c → (s.carriage c).state = .faulted →
       exec (.discard l edit) s = .next (queued (((unlisted t).modCarriage c fun k =>
         { k with vat := none, tag := none, orderedAt := none, startedAt := none, slice := none }).modVat v fun r =>
           { r with carriage := none }))) ∧
     ((s.vat v).stage = .vacant ∨ (s.vat v).stage = .fillQueued ∨ (s.vat v).stage = .filling ∨
       (s.vat v).stage = .dumpQueued ∨ (s.vat v).stage = .dumping ∨ (s.vat v).stage = .washing ∨
       ((s.vat v).stage = .cutWindow ∧ (s.vat v).carriage ≠ none) ∨
       (∃ c, (s.vat v).stage = .cutting ∧ (s.vat v).carriage = some c ∧ (s.carriage c).state ≠ .faulted) →
       exec (.discard l edit) s = .next (s.answered l edit f .stage [])))

/-- CLEAR of a bank: FAULTED with PROVED low it enters PRIMING with its rinse counter at 0 and one flush; with PROVED high
the reply is FAULTED; in any other state it is STAGE (R68, R81, R168). -/
def Obligations.ClearBankPrimes : Prop :=
  ∀ (s : State) (l : Link) (edit : Bool) (f : Frame) (b : Bank), Asks s l edit .clearBank f → f.byteAt 0 = 1 →
    bankOf? (f.byteAt 1) = some b →
    ((s.bank b).state ≠ .faulted → exec (.clearBank l edit) s = .next (s.answered l edit f .stage [])) ∧
    ((s.bank b).state = .faulted → s.proved[b] = true →
      exec (.clearBank l edit) s = .next (s.answered l edit f .faulted [])) ∧
    ((s.bank b).state = .faulted → s.proved[b] = false → (s.bank b).Sound →
      exec (.clearBank l edit) s = .next ((s.answered l edit f .done []).modBank b fun k =>
        { k with state := .priming, faultCause := none, rinseCount := 0, flush := some ⟨0, s.settings.flushDuration⟩ }))

/-- CLEAR of a carriage or of the line frees it when it is FAULTED and holds nothing: the fault cause becomes absent, missed
starts 0, free since now, and the arbiter looks; in every other state the reply is STAGE. The freeze, the station's presence
and the blocked mark play no part (R112, R131, R168). -/
def Obligations.ClearFreesCarriageAndLine : Prop :=
  ∀ (s : State) (l : Link) (edit : Bool) (f : Frame),
    (∀ c, Asks s l edit .clearCarriage f → f.byteAt 0 = 2 → carriageOf? (f.byteAt 1) = some c →
      ((s.carriage c).state = .faulted → (s.carriage c).vat = none →
        exec (.clearCarriage l edit) s = .next (((s.answered l edit f .done []).modCarriage c fun k =>
          { k with state := .free, faultCause := none, missed := 0, freeSince := s.clock }).cutLook)) ∧
      ((s.carriage c).state ≠ .faulted ∨ (s.carriage c).vat ≠ none →
        exec (.clearCarriage l edit) s = .next (s.answered l edit f .stage []))) ∧
    (Asks s l edit .clearCarriage f → f.byteAt 0 = 2 → carriageOf? (f.byteAt 1) = none →
      exec (.clearCarriage l edit) s = .next (s.answered l edit f .range [])) ∧
    (Asks s l edit .clearLine f → f.byteAt 0 = 3 → f.byteAt 1 = 0 →
      (s.line.state = .faulted → s.line.current = none →
        exec (.clearLine l edit) s = .next (((s.answered l edit f .done []).modLine fun k =>
          { k with state := .free, faultCause := none, freeSince := s.clock }).lineLook)) ∧
      (s.line.state ≠ .faulted ∨ s.line.current ≠ none →
        exec (.clearLine l edit) s = .next (s.answered l edit f .stage [])))

/-- GET answers the item's number and the value the store holds, whatever the EDIT line, and changes nothing; a number that
names no item is RANGE (R163). That the value takes two bytes is the model's reading (log 15). The number of every item, and
the numbers that name none (R162). -/
def Obligations.GetReadsTheStore : Prop :=
  (∀ (s : State) (l : Link) (edit : Bool) (f : Frame), Asks s l edit .get f →
     (itemOf? (f.byteAt 0) = none → exec (.get l edit) s = .next (s.answered l edit f .range [])) ∧
     ∀ i, itemOf? (f.byteAt 0) = some i → exec (.get l edit) s =
       .next (s.answered l edit f .done [.one (f.byteAt 0), .two (s.settings.get i)])) ∧
  (∀ c : RecipeClass, itemOf? (1 + 4 * c.val) = some (.firmMin c) ∧ itemOf? (2 + 4 * c.val) = some (.firmMax c) ∧
     itemOf? (3 + 4 * c.val) = some (.healMin c) ∧ itemOf? (4 + 4 * c.val) = some (.healMax c)) ∧
  [40, 41, 42, 43, 44, 45, 46, 47, 48, 49, 50, 51, 52, 53, 54, 60, 61, 62, 63, 64, 65, 66, 67, 70, 71, 72, 80].map itemOf? =
    [Item.zoneEnd 0, .zoneEnd 1, .zoneEnd 2, .zoneEnd 3, .travelLimit, .drainInterval, .pathOpenLimit, .rinseInterval,
      .rinseDuration, .flushCount, .flushDuration, .parkDelay, .litresPerPulse, .noFlowTime, .washVolume, .urgencyMargin,
      .cutStartLimit, .cutSliceLimit, .strikes, .reachLow 0, .reachHigh 0, .reachLow 1, .reachHigh 1, .dumpStartLimit,
      .dumpDurationLimit, .volumeTolerance, .presenceTimeout].map some ∧
  (∀ n : Nat, n = 0 ∨ (33 ≤ n ∧ n ≤ 39) ∨ (55 ≤ n ∧ n ≤ 59) ∨ n = 68 ∨ n = 69 ∨ (73 ≤ n ∧ n ≤ 79) ∨ 81 ≤ n →
     itemOf? n = none)

/-- SET: RANGE when the value is out of range or breaks an ordering, BUSY when the owner refuses it, else DONE with the store
holding the value and every other item as it was; the owner then acts (R164). The order of the
BUSY check and the two bytes of the value are the model's readings (log 15, 18).
What a SET makes its owner do: the OPEN entries at or past their urgency moment move to the URGENT tail in their order;
every rinse counter becomes 0 whatever the state of its bank; the other items listed act on nothing (R32, R70, R86, R87,
R113, R137).
A path-open limit expires on every OPEN bank that has reached it; a park delay starts, stops or expires the park timers of
the READY banks; a presence timeout makes every station that has reached it ABSENT (R63, R84, R87, R151, R164). Several
expire in a free order (log 17). -/
def Obligations.SetWritesTheStoreAndActs : Prop :=
  (∀ (s : State) (l : Link) (edit : Bool) (f : Frame) (i : Item), Asks s l edit .set f → itemOf? (f.byteAt 0) = some i →
     (s.settings.allows i (f.pairAt 1) = false → exec (.set l edit) s = .next (s.answered l edit f .range [])) ∧
     (s.settings.allows i (f.pairAt 1) = true → s.busy i = true →
       exec (.set l edit) s = .next (s.answered l edit f .busy [])) ∧
     (s.settings.allows i (f.pairAt 1) = true → s.busy i = false →
       let t := s.answered l edit f .done [.one (f.byteAt 0), .two (f.pairAt 1)]
       (s.settings.get i = f.pairAt 1 → i ≠ .rinseInterval → exec (.set l edit) s = .next t) ∧
       (s.settings.get i ≠ f.pairAt 1 ∨ i = .rinseInterval → exec (.set l edit) s =
         .next (State.actOnSet { t with settings := s.settings.put i (f.pairAt 1) } i))) ∧
     (s.settings.put i (f.pairAt 1)).get i = f.pairAt 1 ∧
     (∀ j, j ≠ i → (s.settings.put i (f.pairAt 1)).get j = s.settings.get j)) ∧
  (∀ s : State,
     ((∀ e ∈ s.openList, s.urgencyReached e = false) → s.actOnSet .urgencyMargin = s) ∧
     ((∃ e ∈ s.openList, s.urgencyReached e = true) → s.actOnSet .urgencyMargin =
       State.cutLook { s with openList := s.openList.filter fun e => !s.urgencyReached e,
                              urgent := s.urgent ++ s.openList.filter s.urgencyReached }) ∧
     (∀ b : Bank, (s.actOnSet .rinseInterval).bank b = { s.bank b with rinseCount := 0 }) ∧
     (∀ c : Carriage, s.actOnSet (.reachLow c) = s.cutLook ∧ s.actOnSet (.reachHigh c) = s.cutLook) ∧
     (∀ i, i ∈ [Item.travelLimit, .drainInterval, .rinseDuration, .flushCount, .flushDuration, .litresPerPulse,
       .noFlowTime, .washVolume, .cutStartLimit, .cutSliceLimit, .strikes, .dumpStartLimit, .dumpDurationLimit,
       .volumeTolerance] → s.actOnSet i = s) ∧
     (∀ c : RecipeClass, s.actOnSet (.firmMin c) = s ∧ s.actOnSet (.firmMax c) = s ∧ s.actOnSet (.healMin c) = s ∧
       s.actOnSet (.healMax c) = s) ∧ ∀ b : Bank, s.actOnSet (.zoneEnd b) = s) ∧
  (∀ s : State,
     ((∀ b : Bank, (s.actOnSet .pathOpenLimit).bank b =
         if (s.bank b).state = .opened ∧ ∃ n, (s.bank b).pathOpen = some n ∧ s.settings.pathOpenLimit * 60 ≤ n
         then (s.expirePath b).bank b else s.bank b) ∧
       (∀ b : Bank, (∀ b', s.openPathDue b' = decide (b' = b)) → s.actOnSet .pathOpenLimit = s.expirePath b) ∧
       ((∀ b : Bank, s.openPathDue b = false) → s.actOnSet .pathOpenLimit = s) ∧
       (s.actOnSet .pathOpenLimit).vats = s.vats) ∧
     ((∀ b : Bank, (s.actOnSet .parkDelay).bank b =
         if (s.bank b).state = .ready ∧ (∀ e ∈ (s.bank b).list, s.eligible e = false) ∧ s.settings.parkDelay ≠ 0 then
           if s.settings.parkDelay * 60 ≤ (s.bank b).park.getD 0 then
             { s.bank b with state := .parked, park := none, parkDrain := some (decide (s.settings.drainInterval ≠ 0)),
                             parkPulse := if s.settings.drainInterval = 0 then none
                               else some ⟨0, s.settings.drainInterval⟩ }
           else { s.bank b with park := some ((s.bank b).park.getD 0) }
         else { s.bank b with park := none }) ∧
       s.actOnSet .parkDelay = { s with banks := (s.actOnSet .parkDelay).banks }) ∧
     ((∀ l : Link, (∀ l', s.presenceDue l' = decide (l' = l)) → s.actOnSet .presenceTimeout = s.becomeAbsent l .timeout) ∧
       ((∀ l : Link, s.presenceDue l = false) → s.actOnSet .presenceTimeout = s) ∧
       (∀ l : Link, ((s.actOnSet .presenceTimeout).link l).presence =
         if s.presenceDue l = true then none else (s.link l).presence) ∧
       (∀ l : Link, s.presenceDue l = true ↔
         l ≠ .console ∧ ∃ n, (s.link l).presence = some n ∧ s.settings.presenceTimeout ≤ n)))

/-- MAP SLOT with a vat, with none, and SERVICE, in the order of their rules; a remap changes the map's entry and the slot
fields of the vats concerned and nothing else (R5, R7, R8, R9). -/
def Obligations.MapAndService : Prop :=
  ∀ (s : State) (l : Link) (edit : Bool) (f : Frame),
    let t := s.answered l edit f .done []
    (∀ slot v, Asks s l edit .mapSlot f → slotOf? (f.byteAt 0) = some slot → vatOf? (f.byteAt 1) = some v →
      (s.slotMap[slot] = some v → exec (.mapSlot l edit) s = .next t) ∧
      (s.slotMap[slot] ≠ some v → (∃ n : Slot, s.slotMap[n] = some v) →
        exec (.mapSlot l edit) s = .next (s.answered l edit f .conflict [])) ∧
      ((∀ n : Slot, s.slotMap[n] ≠ some v) →
        ((s.vat v).stage ≠ .vacant ∨ (∃ w, s.slotMap[slot] = some w ∧ (s.vat w).stage ≠ .vacant) →
          exec (.mapSlot l edit) s = .next (s.answered l edit f .stage [])) ∧
        (∀ w, (s.vat v).stage = .vacant → s.slotMap[slot] = some w → (s.vat w).stage = .vacant →
          exec (.mapSlot l edit) s = .next { (t.modVat w fun r => { r with slot := none }).modVat v fun r =>
            { r with slot := some slot } with slotMap := s.slotMap.set slot (some v) }) ∧
        ((s.vat v).stage = .vacant → s.slotMap[slot] = none →
          exec (.mapSlot l edit) s = .next { t.modVat v fun r => { r with slot := some slot } with
            slotMap := s.slotMap.set slot (some v) }))) ∧
    (∀ slot, Asks s l edit .unmapSlot f → slotOf? (f.byteAt 0) = some slot →
      (s.slotMap[slot] = none → exec (.unmapSlot l edit) s = .next t) ∧
      ∀ w, s.slotMap[slot] = some w →
        ((s.vat w).stage ≠ .vacant → exec (.unmapSlot l edit) s = .next (s.answered l edit f .stage [])) ∧
        ((s.vat w).stage = .vacant → exec (.unmapSlot l edit) s = .next
          { t.modVat w fun r => { r with slot := none } with slotMap := s.slotMap.set slot none })) ∧
    (∀ v, Asks s l edit .service f → vatOf? (f.byteAt 0) = some v →
      (f.byteAt 1 = 1 → exec (.service l edit) s = .next (t.modVat v fun r => { r with service := .inUse })) ∧
      (f.byteAt 1 = 0 → (s.vat v).stage = .vacant →
        exec (.service l edit) s = .next (t.modVat v fun r => { r with service := .outOfUse })) ∧
      (f.byteAt 1 = 0 → (s.vat v).stage ≠ .vacant →
        exec (.service l edit) s = .next (s.answered l edit f .stage [])))

/-- DECLARE: its checks in their order, and the declared record in each of its three target stages (R2, R16, R17); RESTART is
answered DONE, after which no request is taken from the Console link (R170). Make-clock sums lie in the clock's range (log 8), and
a heal-min already reached is applied straight after (log 30). -/
def Obligations.DeclareAndRestart : Prop :=
  ∀ (s : State) (l : Link) (edit : Bool) (f : Frame),
    (∀ slot c stage, Asks s l edit .declare f → slotOf? (f.byteAt 0) = some slot → classOf? (f.byteAt 1) = some c →
      1000 ≤ f.pairAt 4 → f.pairAt 4 ≤ 30000 → Stage.ofCode (f.byteAt 6) = some stage →
      (s.slotMap[slot] = none → exec (.declare l edit) s = .next (s.answered l edit f .unmapped [])) ∧
      ∀ v, s.slotMap[slot] = some v →
        let x := s.settings.timesOf c
        let t := s.answered l edit f .done []
        let declared (r : VatRecord) : VatRecord :=
          { r with stage := stage, batch := some (f.pairAt 2), recipe := some c, snapshot := some x,
                   target := some (f.pairAt 4), filled := f.pairAt 4, declared := true }
        ((s.vat v).service = .outOfUse → exec (.declare l edit) s = .next (s.answered l edit f .service [])) ∧
        ((s.vat v).service = .inUse → (s.vat v).stage ≠ .vacant →
          exec (.declare l edit) s = .next (s.answered l edit f .stage [])) ∧
        ((s.vat v).service = .inUse → (s.vat v).stage = .vacant →
          (stage ≠ .charged → stage ≠ .working → stage ≠ .dumpQueued →
            exec (.declare l edit) s = .next (s.answered l edit f .stage [])) ∧
          (stage = .charged → exec (.declare l edit) s = .next (t.modVat v declared)) ∧
          (stage = .working → s.clock + x.healMin < Config.clockRange → s.clock + x.healMax < Config.clockRange →
            exec (.declare l edit) s = .next ((t.modVat v fun r =>
              { declared r with cutDone := some s.clock, healMin := some (s.clock + x.healMin),
                                healMax := some (s.clock + x.healMax) }).healMinAtOnce v)) ∧
          (stage = .dumpQueued → exec (.declare l edit) s =
            .next (((t.modVat v declared).joinDump v .normal false).lineLook)))) ∧
    (Asks s l edit .restart f → ∃ t, exec (.restart l edit) s = .next t ∧
      t = { s.answered l edit f .done [] with restartAccepted := true } ∧ t.takable .console = none)

/-! ### Deadlines of the vat table -/

/-- Cut-open, the urgency moment and cut-close when they are due: into the cut window, or step pending under step mode; from
OPEN to the URGENT tail; to OVERSET, with its entry removed or its order withdrawn, and VAT OVERSET raised. Where R30 and R33 give
them no effect, they change nothing (R30, R32, R33, R100; log 3). -/
def Obligations.CutDeadlines : Prop :=
  ∀ (s : State) (v : Vat), s.inReset = false →
    (∀ x, (s.vat v).stage = .setting → (s.vat v).stepPending = .nothing → (s.vat v).cutOpen = some x → x ≤ s.clock →
      ((s.vat v).stepMode = false → exec (.cutOpenReached v) s =
        .next ((s.modVat v fun r => { r with stage := .cutWindow, stepPending := .nothing }).joinCut v).cutLook) ∧
      ((s.vat v).stepMode = true → exec (.cutOpenReached v) s =
        .next ((s.modVat v fun r => { r with stepPending := .cutOpen }).raise .console
          (.stepPending (s.vat v).slot v .cutOpen (s.vat v).cutClose)))) ∧
    ((s.vat v).stage ≠ .setting → exec (.cutOpenReached v) s = .next s) ∧
    (∀ before e behind x, s.openList = before ++ e :: behind → (∀ y ∈ before, y.vat ≠ v) → e.vat = v →
      e.cutClose = some x → x ≤ s.clock + s.settings.urgencyMargin → exec (.urgencyMoment v) s =
        .next (State.cutLook { s with openList := before ++ behind, urgent := s.urgent ++ [e] })) ∧
    (∀ x, (s.vat v).cutClose = some x → x ≤ s.clock →
      let overset : Notice := .vatOverset (s.vat v).slot v (s.vat v).batch (s.vat v).cutClose
      let unlisted : State :=
        { s with urgent := dropOne (fun e => decide (e.vat = v)) s.urgent,
                 openList := dropOne (fun e => decide (e.vat = v)) s.openList }
      ((s.vat v).stage = .setting ∨ ((s.vat v).stage = .cutWindow ∧ (s.vat v).carriage = none) →
        exec (.cutCloseReached v) s =
          .next ((unlisted.modVat v fun r => { r with stage := .overset, stepPending := .nothing }).raiseBoth .cut
            .console overset)) ∧
      (∀ c tag, (s.vat v).stage = .cutWindow → (s.vat v).carriage = some c → (s.carriage c).state = .ordered →
        (s.carriage c).tag = some tag → exec (.cutCloseReached v) s =
          .next ((({ (s.modCarriage c fun k =>
              { k with state := .free, freeSince := s.clock, vat := none, tag := none, orderedAt := none,
                       start := none }).modVat v fun r =>
                { r with stage := .overset, stepPending := .nothing, carriage := none } with
              lateTags := if tag ∈ s.lateTags then s.lateTags else s.lateTags ++ [tag] }.raise .cut
                (.orderWithdrawn c (some tag) (some v) (s.vat v).slot .cutClose)).raiseBoth .cut .console
                  overset).cutLook))) ∧
    ((s.vat v).stage ≠ .setting → (s.vat v).stage ≠ .cutWindow → exec (.cutCloseReached v) s = .next s)

/-- Heal-min and heal-max when they are due: a WORKING vat becomes DUMP-QUEUED with a NORMAL entry, or step pending under
step mode; a NORMAL entry in ROUTINE moves to the LATE tail. In any other stage they change nothing (R38, R39;
log 3).
When the two fall due in one second, heal-min applied first puts the entry in ROUTINE, from which heal-max moves it, and
heal-max applied first makes the entry join LATE: the model's reading of R39's ruling, and its mark that heal-max came first
(log 37). -/
def Obligations.HealDeadlines : Prop :=
  (∀ (s : State) (v : Vat), s.inReset = false →
     (∀ x, (s.vat v).stage = .working → (s.vat v).stepPending = .nothing → (s.vat v).healMin = some x → x ≤ s.clock →
       ((s.vat v).stepMode = false → x < s.clock ∨ (s.vat v).healMax ≠ some s.clock ∨ (s.vat v).healMaxFirst = true →
         exec (.healMinReached v) s =
           .next ((s.modVat v fun r => { r with stage := .dumpQueued, stepPending := .nothing }).joinDump v .normal
             false).lineLook) ∧
       ((s.vat v).stepMode = true → exec (.healMinReached v) s =
         .next ((s.modVat v fun r => { r with stepPending := .healMin }).raise .console
           (.stepPending (s.vat v).slot v .healMin (s.vat v).healMax)))) ∧
     ((s.vat v).stage ≠ .working → exec (.healMinReached v) s = .next s) ∧
     (∀ before e behind x, s.routine = before ++ e :: behind → (∀ y ∈ before, y.vat ≠ v ∨ y.kind ≠ .normal) → e.vat = v →
       e.kind = .normal → (s.vat v).stage = .dumpQueued → (s.vat v).healMax = some x → x ≤ s.clock →
       exec (.healMaxReached v) s =
         .next (State.lineLook { s with routine := before ++ behind, lateList := s.lateList ++ [e] })) ∧
     ((s.vat v).stage ≠ .dumpQueued → (s.vat v).stage ≠ .working ∨ (s.vat v).stepPending ≠ .nothing ∨
       (s.vat v).healMin ≠ some s.clock ∨ (s.vat v).healMax ≠ some s.clock ∨ (s.vat v).healMaxFirst = true →
       exec (.healMaxReached v) s = .next s) ∧
     (∀ kind early, (kind = .waste ∨ ∀ x, (s.vat v).healMax = some x → s.clock < x) → s.joinDump v kind early =
       { s with routine := s.routine ++ [⟨v, (s.vat v).slot, kind, early, s.clock⟩] }) ∧
     (∀ early x, (s.vat v).healMax = some x → x ≤ s.clock → s.joinDump v .normal early =
       { s with lateList := s.lateList ++ [⟨v, (s.vat v).slot, .normal, early, s.clock⟩] })) ∧
  (∀ (s : State) (v : Vat), s.inReset = false → (s.vat v).stage = .working → (s.vat v).stepPending = .nothing →
     (s.vat v).healMin = some s.clock → (s.vat v).healMax = some s.clock → (s.vat v).healMaxFirst = false →
     (exec (.healMaxReached v) s = .next (s.modVat v fun r => { r with healMaxFirst := true })) ∧
     ((s.vat v).stepMode = false → exec (.healMinReached v) s =
       .next (State.lineLook { s.modVat v fun r => { r with stage := .dumpQueued, stepPending := .nothing } with
         routine := s.routine ++ [⟨v, (s.vat v).slot, .normal, false, s.clock⟩] })) ∧
     ((s.vat v).stepMode = false →
       exec (.healMinReached v) (s.modVat v fun r => { r with healMaxFirst := true }) =
         .next (State.lineLook { s.modVat v fun r =>
             { r with healMaxFirst := true, stage := .dumpQueued, stepPending := .nothing } with
           lateList := s.lateList ++ [⟨v, (s.vat v).slot, .normal, false, s.clock⟩] }))) ∧
  (∀ (s : State) (v : Vat), s.inReset = false → exec (.healMinReached v) s = .next (s.healMinAtOnce v))

/-! ### Banks -/

/-- What a bank drives: FEED on exactly while it is OPEN with its transfer RUNNING; the other lines by its state, its close
phase, its start phase, its park drain and the kind of its transfer; its closed values in reset (R50, R51, R73, R172). -/
def Obligations.OutputsFollowState : Prop :=
  ∀ (s : State) (b : Bank), (s.bank b).Sound →
    let k := s.bank b
    let o := s.outputs b
    (s.inReset = true → o = ⟨0, false, false, false, false, .wash⟩) ∧
    (s.inReset = false →
      (o.feed = true ↔ k.state = .opened ∧ ∃ c, k.current = some c ∧ c.phase = .running) ∧
      (o.openValve = true ↔ k.state = .opening ∨ k.state = .opened) ∧
      (o.drain = true ↔ k.startPhase = some .flush ∨ k.state = .priming ∨ k.state = .rinsing ∨
        (k.state = .closing ∧ k.closePhase = some .drain) ∨ k.parkDrain = some true) ∧
      (o.rinse = true ↔ k.startPhase = some .flush ∨ k.state = .priming ∨ k.state = .rinsing) ∧
      (o.medium = .fill ↔ ∃ c, k.current = some c ∧ c.entry.kind = .fill) ∧
      (∀ v, k.path = some v → o.sel = v.val + 1) ∧ (k.path = none → o.sel = 0) ∧
      (o.feed = true → ∃ c, k.current = some c ∧ o.sel = c.entry.vat.val + 1 ∧ o.openValve = true))

/-- PROVED_RISE: in OPENING the path is open and the transfer runs, or ends when its cancel mark is set; with the path closed
it is a valve fault; in the PROVE phase and in FAULTED only the level changes (R26, R56, R66, R74).
PROVED_FALL: in the TRAVEL phase of CLOSING the path becomes absent and the drain begins, ending in the step with a
drain interval of 0; in OPEN it is a valve fault; in the PROVE phase the first flush begins; in FAULTED only the level
changes (R58, R66, R74, R75). -/
def Obligations.ProvedChanges : Prop :=
  (∀ (s : State) (b : Bank), s.inReset = false → s.proved[b] = false →
     let t := { s with proved := s.proved.set b true }
     (∀ c, (s.bank b).state = .opening → (s.bank b).current = some c →
       (c.cancel = false → exec (.provedRise b) s = .next (t.modBank b fun k =>
         { k with state := .opened, travel := none, pathOpen := some 0, current := some { c with phase := .running },
                  noFlow := some ⟨0, s.settings.noFlowTime⟩ })) ∧
       (c.cancel = true → exec (.provedRise b) s = .next
         (((t.modBank b fun k =>
           { k with state := .opened, travel := none, pathOpen := some 0, current := none }).endFill
             c.entry.vat).afterTransfer b))) ∧
     ((s.bank b).state = .ready ∨ (s.bank b).state = .rinsing ∨ (s.bank b).state = .priming ∨ (s.bank b).state = .parked ∨
       ((s.bank b).state = .closing ∧ (s.bank b).closePhase = some .drain) ∨
       ((s.bank b).state = .start ∧ (s.bank b).startPhase = some .flush) →
       exec (.provedRise b) s = .next (t.faultBank b .valve)) ∧
     ((s.bank b).state = .faulted ∨ ((s.bank b).state = .start ∧ (s.bank b).startPhase = some .prove) →
       exec (.provedRise b) s = .next t)) ∧
  (∀ (s : State) (b : Bank), s.inReset = false → s.proved[b] = true →
     let t := { s with proved := s.proved.set b false }
     ((s.bank b).state = .closing → (s.bank b).closePhase = some .travel →
       let u := t.modBank b fun k =>
         { k with path := none, travel := none, stoppedPath := none, closePhase := some .drain,
                  drain := some ⟨0, s.settings.drainInterval⟩ }
       (s.settings.drainInterval ≠ 0 → exec (.provedFall b) s = .next u) ∧
       (s.settings.drainInterval = 0 → exec (.provedFall b) s = .next (u.endDrain b))) ∧
     ((s.bank b).state = .opened → exec (.provedFall b) s = .next (t.faultBank b .valve)) ∧
     ((s.bank b).state = .start → (s.bank b).startPhase = some .prove →
       exec (.provedFall b) s = .next (t.modBank b fun k =>
         { k with startPhase := some .flush, travel := none, flush := some ⟨0, s.settings.flushDuration⟩ })) ∧
     ((s.bank b).state = .faulted → exec (.provedFall b) s = .next t))

/-- FLOW_PULSE: a RUNNING transfer takes the litres per pulse, a fill's vat with it, and the no-flow timer restarts; at the
target the transfer ends, a filled vat is CHARGED with FILL COMPLETE and a washed one VACANT with WASH COMPLETE; a pulse with
no RUNNING transfer faults the bank as stray, and a FAULTED bank takes no notice (R25, R44, R59, R65). -/
def Obligations.FlowPulse : Prop :=
  ∀ (s : State) (b : Bank), s.inReset = false →
    let litres := s.settings.litresPerPulse
    ((s.bank b).state = .faulted → exec (.flowPulse b) s = .next s) ∧
    ((s.bank b).state ≠ .faulted → (∀ c, (s.bank b).current = some c → c.phase ≠ .running) →
      exec (.flowPulse b) s = .next (s.faultBank b .stray)) ∧
    (∀ c, (s.bank b).state ≠ .faulted → (s.bank b).current = some c → c.phase = .running →
      let v := c.entry.vat
      let metered (t : State) : State := t.modBank b fun k =>
        { k with current := some { c with entry := { c.entry with volume := c.entry.volume + litres } },
                 noFlow := some ⟨0, s.settings.noFlowTime⟩ }
      let ended (t : State) : State := t.modBank b fun k => { k with current := none, noFlow := none }
      (c.entry.volume + litres < c.entry.target →
        (c.entry.kind = .fill → exec (.flowPulse b) s =
          .next (metered (s.modVat v fun r => { r with filled := r.filled + litres }))) ∧
        (c.entry.kind = .wash → exec (.flowPulse b) s = .next (metered s))) ∧
      (c.entry.target ≤ c.entry.volume + litres →
        (c.entry.kind = .fill → exec (.flowPulse b) s =
          .next ((((ended s).modVat v fun r => { r with filled := r.filled + litres, stage := .charged }).raise .fill
            (.fillComplete (s.vat v).slot v (s.vat v).batch ((s.vat v).filled + litres))).afterTransfer b)) ∧
        (c.entry.kind = .wash → exec (.flowPulse b) s =
          .next ((((ended s).modVat v VatRecord.cleared).raise .fill
            (.washComplete (s.vat v).slot v)).afterTransfer b))))

/-- A bank fault: the outputs close, a transfer without the cancel mark goes to the list head with the resumed mark and one
with it is dropped, path, timers and close fields are absent, the cause is recorded, the rinse counter holds its count, and
BANK FAULT, with the vat, the slot, the kind and the volume of the transfer it suspends or drops, is raised on the Fill and
Console links; the other banks stay as they are (R64, R67, R71, R77). That a PARKED bank too holds its count is log 33. -/
def Obligations.BankFault : Prop :=
  ∀ (s : State) (b : Bank) (cause : BankFaultCause),
    let t := s.faultBank b cause
    let lost : Option LostTransfer := (s.bank b).current.map fun c =>
      ⟨c.entry.vat, (s.vat c.entry.vat).slot, c.entry.kind, c.entry.volume⟩
    (t.bank b).state = .faulted ∧ (t.bank b).faultCause = some cause ∧ (t.bank b).path = none ∧
    (t.bank b).current = none ∧ (t.bank b).travel = none ∧ (t.bank b).drain = none ∧ (t.bank b).pathOpen = none ∧
    (t.bank b).noFlow = none ∧ (t.bank b).closeCause = none ∧ (t.bank b).closePhase = none ∧ (t.bank b).park = none ∧
    (t.bank b).rinseCount = (s.bank b).rinseCount ∧ (t.bank b).rinsePending = (s.bank b).rinsePending ∧
    (t.bank b).outputs = ⟨0, false, false, false, false, .wash⟩ ∧
    (∀ c, (s.bank b).current = some c → c.cancel = false →
      (t.bank b).list = { c.entry with resumed := true } :: (s.bank b).list ∧ t.vats = s.vats) ∧
    (∀ c, (s.bank b).current = some c → c.cancel = true → (t.bank b).list = (s.bank b).list ∧
      (0 < (s.vat c.entry.vat).filled → t.vat c.entry.vat = { s.vat c.entry.vat with stage := .charged }) ∧
      ((s.vat c.entry.vat).filled = 0 → t.vat c.entry.vat = (s.vat c.entry.vat).cleared)) ∧
    ((s.bank b).current = none → (t.bank b).list = (s.bank b).list ∧ t.vats = s.vats) ∧
    (∀ b', b' ≠ b → t.bank b' = s.bank b') ∧
    t.link .fill = (s.link .fill).raise (.bankFault b cause lost) ∧
    t.link .console = (s.link .console).raise (.bankFault b cause lost) ∧
    t.carriages = s.carriages ∧ t.line = s.line ∧ t.settings = s.settings

/-- The expiries of a bank's travel, drain and no-flow timers and of its path-open limit, when they are due (R58, R60, R63,
R64, R66, R71, R74).
A close begins with the travel timer and its cause; the path-open timer stops. A limit that was due in the second in which
the bank drove OPEN off turns the cause of the close, in its TRAVEL phase, into LIMIT (R52, R58, R63; log 21). -/
def Obligations.PathTimers : Prop :=
  (∀ (s : State) (b : Bank) (n : Timer), s.inReset = false → n.limit ≤ n.count →
     ((s.bank b).travel = some n → ((s.bank b).state = .start → exec (.travelTimerExpiry b) s =
         .next (s.faultBank b .prime)) ∧
       ((s.bank b).state ≠ .start → exec (.travelTimerExpiry b) s = .next (s.faultBank b .valve))) ∧
     ((s.bank b).drain = some n →
       let t := s.modBank b fun k => { k with drain := none }
       ((s.bank b).closeCause = some .miss → exec (.drainTimerExpiry b) s = .next (t.enterReady b)) ∧
       ((s.bank b).closeCause = some .limit ∨ (s.bank b).closeCause = some .rinse →
         exec (.drainTimerExpiry b) s = .next (t.modBank b fun k =>
           { k with state := .rinsing, rinsePending := false, rinseOverdue := false,
                    rinse := some ⟨0, s.settings.rinseDuration⟩, park := none, closeCause := none,
                    closePhase := none }))) ∧
     (∀ c, (s.bank b).noFlow = some n → (s.bank b).current = some c →
       (c.phase = .running → c.entry.kind = .fill → exec (.noFlowTimerExpiry b) s =
         .next ((s.modBank b fun k => { k with current := some { c with phase := .stalled }, noFlow := none }).raise .fill
           (.fillStalled (s.vat c.entry.vat).slot c.entry.vat b c.entry.volume c.entry.target))) ∧
       (c.phase = .running → c.entry.kind = .wash → exec (.noFlowTimerExpiry b) s =
         .next ((s.modBank b fun k =>
           { k with current := some { c with phase := .stalled }, noFlow := some ⟨0, s.settings.noFlowTime⟩ }).raise .fill
           (.washStalled (s.vat c.entry.vat).slot c.entry.vat b c.entry.volume c.entry.target))) ∧
       (c.phase = .stalled → exec (.noFlowTimerExpiry b) s = .next (s.modBank b fun k =>
         { k with current := some { c with phase := .running }, noFlow := some ⟨0, s.settings.noFlowTime⟩ }))) ∧
     (∀ m, (s.bank b).state = .opened → (s.bank b).pathOpen = some m → s.settings.pathOpenLimit * 60 ≤ m →
       ((s.bank b).current = none → exec (.pathOpenLimit b) s = .next (s.beginClose b .limit)) ∧
       (∀ c, (s.bank b).current = some c →
         let t := s.modBank b fun k =>
           { k with current := none, noFlow := none, list := { c.entry with resumed := true } :: k.list }
         (c.entry.kind = .wash → exec (.pathOpenLimit b) s = .next (t.beginClose b .limit)) ∧
         (c.entry.kind = .fill → exec (.pathOpenLimit b) s = .next ((t.raise .fill
           (.fillSuspended (s.vat c.entry.vat).slot c.entry.vat b c.entry.volume c.entry.target)).beginClose b .limit))))) ∧
  (∀ (s : State) (b : Bank) (cause : CloseCause), s.beginClose b cause = s.modBank b fun k =>
     { k with state := .closing, closeCause := some cause, closePhase := some .travel,
              travel := some ⟨0, s.settings.travelLimit⟩, pathOpen := none,
              stoppedPath := k.pathOpen.bind fun n =>
                if s.settings.pathOpenLimit * 60 ≤ n then some ⟨s.clock, n⟩ else none }) ∧
  (∀ (s : State) (b : Bank) (p : StoppedPath), s.inReset = false → (s.bank b).state = .closing →
     (s.bank b).closePhase = some .travel → (s.bank b).closeCause = some .miss ∨ (s.bank b).closeCause = some .rinse →
     (s.bank b).stoppedPath = some p → p.clock = s.clock → s.settings.pathOpenLimit * 60 ≤ p.count →
     exec (.pathOpenLimit b) s = .next (s.modBank b fun k => { k with closeCause := some .limit })) ∧
  (∀ (s : State) (b : Bank) (m : Nat), s.inReset = false → (s.bank b).state = .opened → (s.bank b).pathOpen = some m →
     s.settings.pathOpenLimit * 60 ≤ m → exec (.pathOpenLimit b) s = .next (s.expirePath b)) ∧
  (∀ (s : State) (b : Bank) (n : Timer), s.inReset = false → (s.bank b).drain = some n → n.limit ≤ n.count →
     exec (.drainTimerExpiry b) s = .next (s.endDrain b))

/-- The flush timer, the rinse counter's match, the rinse timer, the park timer and the park drain, when they are due (R75,
R78, R79, R80, R82, R84).
A bank that enters READY takes a pending rinse at once, and otherwise looks at its list and its park timer; after a transfer
that leaves the path open a pending rinse comes before a hit or a miss; a rinse taken turns both marks off and starts the
rinse timer (R75, R79, R80, R82, R83). -/
def Obligations.HygieneTimers : Prop :=
  (∀ (s : State) (b : Bank) (n : Timer), s.inReset = false → n.limit ≤ n.count →
     ((s.bank b).flush = some n →
       (∀ d, (s.bank b).state = .start → (s.bank b).flushesDone = some d → d + 1 < s.settings.flushCount →
         exec (.flushTimerExpiry b) s = .next (s.modBank b fun k =>
           { k with flushesDone := some (d + 1), flush := some ⟨0, s.settings.flushDuration⟩ })) ∧
       (∀ d, (s.bank b).state = .start → (s.bank b).flushesDone = some d → s.settings.flushCount ≤ d + 1 →
         exec (.flushTimerExpiry b) s =
           .next ((s.modBank b fun k => { k with rinsePending := false, rinseOverdue := false }).enterReady b)) ∧
       ((s.bank b).state = .priming → exec (.flushTimerExpiry b) s =
         .next ((s.modBank b fun k => { k with rinsePending := false, rinseOverdue := false }).enterReady b))) ∧
     ((s.bank b).rinse = some n → exec (.rinseTimerExpiry b) s = .next (s.enterReady b)) ∧
     ((s.bank b).parkPulse = some n → exec (.parkDrainEnd b) s =
       .next (s.modBank b fun k => { k with parkDrain := some false, parkPulse := none })) ∧
     (∀ m, (s.bank b).park = some m → s.settings.parkDelay ≠ 0 → s.settings.parkDelay * 60 ≤ m →
       s.settings.drainInterval ≠ 0 → exec (.parkTimerExpiry b) s = .next (s.modBank b fun k =>
         { k with state := .parked, park := none, parkDrain := some true,
                  parkPulse := some ⟨0, s.settings.drainInterval⟩ })) ∧
     (∀ m, (s.bank b).park = some m → s.settings.parkDelay ≠ 0 → s.settings.parkDelay * 60 ≤ m →
       s.settings.drainInterval = 0 → exec (.parkTimerExpiry b) s = .next (s.modBank b fun k =>
         { k with state := .parked, park := none, parkDrain := some false, parkPulse := none })) ∧
     (s.settings.rinseInterval ≠ 0 → (s.bank b).state ≠ .parked → (s.bank b).state ≠ .faulted →
       s.settings.rinseInterval * 60 ≤ (s.bank b).rinseCount →
       ((s.bank b).rinsePending = true → exec (.rinseCounterMatch b) s =
         .next ((s.modBank b fun k => { k with rinseCount := 0, rinseOverdue := true }).raise .console
           (.rinseOverdue b (s.bank b).state ((s.bank b).current.map Current.entry)))) ∧
       ((s.bank b).rinsePending = false →
         let t := s.modBank b fun k => { k with rinseCount := 0, rinsePending := true }
         ((s.bank b).state = .ready → exec (.rinseCounterMatch b) s = .next (t.takeRinse b)) ∧
         ((s.bank b).state = .opened → (s.bank b).current = none →
           exec (.rinseCounterMatch b) s = .next (t.beginClose b .rinse)) ∧
         ((s.bank b).state ≠ .ready → ((s.bank b).state = .opened → (s.bank b).current ≠ none) →
           exec (.rinseCounterMatch b) s = .next t)))) ∧
  (∀ (s : State) (b : Bank),
     let t := s.modBank b fun k =>
       { k with state := .ready, closeCause := none, closePhase := none, drain := none, startPhase := none,
                flushesDone := none, flush := none, rinse := none }
     ((s.bank b).rinsePending = true → s.enterReady b = t.modBank b fun k =>
       { k with state := .rinsing, rinsePending := false, rinseOverdue := false,
                rinse := some ⟨0, s.settings.rinseDuration⟩, park := none }) ∧
     ((s.bank b).rinsePending = false → s.enterReady b = (t.bankLook b).parkLook b) ∧
     ((s.bank b).rinsePending = true → s.afterTransfer b = s.beginClose b .rinse) ∧
     ((s.bank b).rinsePending = false → s.afterTransfer b = s.bankLook b) ∧
     s.takeRinse b = s.modBank b fun k =>
       { k with state := .rinsing, rinsePending := false, rinseOverdue := false,
                rinse := some ⟨0, s.settings.rinseDuration⟩, park := none, closeCause := none, closePhase := none })

/-! ### The arbiters' timers -/

/-- The expiries of the start and slice timers of a carriage and of the start and duration timers of the curd line, when they
are due (R101, R104, R111, R125, R127). -/
def Obligations.ArbiterTimers : Prop :=
  ∀ (s : State) (n : Timer), s.inReset = false → n.limit ≤ n.count →
    (∀ c v, (s.carriage c).state = .ordered → (s.carriage c).start = some n → (s.carriage c).vat = some v →
      let missed := (s.carriage c).missed + 1
      let returned (state : CarriageState) (cause : Option CarriageFaultCause) (since : Nat) : State :=
        (((s.modCarriage c fun k =>
          { k with state := state, faultCause := cause, freeSince := since, missed := missed, vat := none, tag := none,
                   orderedAt := none, start := none }).modVat v fun r => { r with carriage := none }).returnCut v).raise
            .cut (.orderWithdrawn c (s.carriage c).tag (some v) (s.vat v).slot .startLimit)
      (missed < s.settings.strikes → exec (.cutStartTimerExpiry c) s =
        .next (returned .free (s.carriage c).faultCause s.clock).cutLook) ∧
      (s.settings.strikes ≤ missed → exec (.cutStartTimerExpiry c) s =
        .next ((returned .faulted (some .strikes) (s.carriage c).freeSince).raiseBoth .cut .console
          (.carriageFault c .strikes missed none none none)).cutLook)) ∧
    (∀ c v, (s.carriage c).state = .cutting → (s.carriage c).slice = some n → (s.carriage c).vat = some v →
      exec (.sliceTimerExpiry c) s =
        .next ((s.modCarriage c fun k =>
          { k with state := .faulted, faultCause := some .slice, slice := none }).raiseBoth .cut .console
            (.carriageFault c .slice (s.carriage c).missed (some v) (s.vat v).slot (s.carriage c).tag))) ∧
    (∀ x, s.line.state = .ordered → s.line.start = some n → s.currentLot = some x →
      exec .dumpStartTimerExpiry s =
        .next ((((({ s with lots := withoutLot s.lots x.number }.modLine fun k =>
          { k with state := .free, freeSince := s.clock, current := none, orderedAt := none, startedAt := none,
                   start := none, duration := none }).modVat x.vat fun r => { r with lot := none }).returnDump x.vat
            (if x.kind = LotKind.waste then EntryKind.waste else EntryKind.normal) x.early).raise .press
              (.dumpWithdrawn x.number x.vat x.slot .startLimit)).lineLook)) ∧
    (∀ x, s.line.state = .running → s.line.duration = some n → s.line.current = some x.number →
      s.findLot x.number = some x → exec .dumpDurationExpiry s =
        .next ((s.modLine fun k =>
          { k with state := .faulted, faultCause := some .duration, duration := none }).raiseBoth .press .console
            (.lineFault x.number (some x.vat) x.slot (some x.kind) s.line.startedAt .duration)))
end

