-- ==== Sys2Proof/Laws/Lists.lean ====
section
/-! SUPPORT. What the choices among list entries answer: `pick?`, `dropOne`, `putBefore`, and an action made for each member
of a list in a free order. -/

namespace Sys2Proof.Machine

/-- A pick is the head-most entry that meets the condition, with the list without it. -/
theorem pick?_eq_some {α : Type} {p : α → Bool} {l : List α} {x : α} {rest : List α} :
    pick? p l = some (x, rest) ↔
      ∃ before behind, l = before ++ x :: behind ∧ rest = before ++ behind ∧ p x = true ∧ ∀ y ∈ before, p y = false := by
  induction l generalizing x rest with
  | nil => simp [pick?]
  | cons a as ih =>
    unfold pick?
    by_cases ha : p a = true
    · simp only [ha, if_true, Option.some.injEq, Prod.mk.injEq]
      constructor
      · rintro ⟨rfl, rfl⟩
        exact ⟨[], as, rfl, rfl, ha, by simp⟩
      · rintro ⟨before, behind, h, hr, hx, hb⟩
        cases before with
        | nil =>
          simp only [List.nil_append, List.cons.injEq] at h hr
          exact ⟨h.1, h.2.trans hr.symm⟩
        | cons b bs =>
          simp only [List.cons_append, List.cons.injEq] at h
          have := hb b (by simp)
          rw [← h.1, ha] at this
          cases this
    · simp only [Bool.not_eq_true] at ha
      simp only [ha, Bool.false_eq_true, if_false]
      constructor
      · intro h
        split at h
        · rename_i y ys hy
          simp only [Option.some.injEq, Prod.mk.injEq] at h
          obtain ⟨before, behind, h₁, h₂, h₃, h₄⟩ := ih.mp hy
          refine ⟨a :: before, behind, ?_, ?_, h.1 ▸ h₃, ?_⟩
          · rw [h₁, h.1]; rfl
          · rw [← h.2, h₂]; rfl
          · intro y hy
            rcases List.mem_cons.mp hy with rfl | hy
            · exact ha
            · exact h₄ y hy
        · cases h
      · rintro ⟨before, behind, h, hr, hx, hb⟩
        cases before with
        | nil =>
          simp only [List.nil_append, List.cons.injEq] at h
          rw [h.1, hx] at ha
          cases ha
        | cons b bs =>
          simp only [List.cons_append, List.cons.injEq] at h
          have := ih.mpr ⟨bs, behind, h.2, rfl, hx, fun y hy => hb y (by simp [hy])⟩
          rw [this, hr, h.1]
          rfl

/-- Nothing is picked exactly when no entry meets the condition. -/
theorem pick?_eq_none {α : Type} {p : α → Bool} {l : List α} : pick? p l = none ↔ ∀ y ∈ l, p y = false := by
  induction l with
  | nil => simp [pick?]
  | cons a as ih =>
    unfold pick?
    by_cases ha : p a = true
    · simp [ha]
    · simp only [Bool.not_eq_true] at ha
      cases h : pick? p as with
      | none => simpa [ha] using ih.mp h
      | some q =>
        simp only [ha, Bool.false_eq_true, if_false, reduceCtorEq, false_iff]
        intro hn
        have := ih.mpr fun y hy => hn y (by simp [hy])
        rw [h] at this
        cases this

/-- A list is dropped from at its head-most entry that meets the condition. -/
theorem dropOne_append {α : Type} {p : α → Bool} {before behind : List α} {x : α} (hx : p x = true)
    (hb : ∀ y ∈ before, p y = false) : dropOne p (before ++ x :: behind) = before ++ behind := by
  have h : pick? p (before ++ x :: behind) = some (x, before ++ behind) :=
    pick?_eq_some.mpr ⟨before, behind, rfl, rfl, hx, hb⟩
  simp [dropOne, h]

/-- A list with no entry that meets the condition stays as it is. -/
theorem dropOne_of_none {α : Type} {p : α → Bool} {l : List α} (h : ∀ y ∈ l, p y = false) : dropOne p l = l := by
  simp [dropOne, pick?_eq_none.mpr h]

/-- A list whose head-most match is dropped loses entries, and gains none. -/
theorem dropOne_sublist {α : Type} (p : α → Bool) (l : List α) : (dropOne p l).Sublist l := by
  unfold dropOne
  split
  · rename_i x rest h
    obtain ⟨before, behind, rfl, rfl, -, -⟩ := pick?_eq_some.mp h
    exact List.Sublist.append (List.Sublist.refl _) (List.sublist_cons_self _ _)
  · exact List.Sublist.refl _

/-- An entry put before the first that meets the condition stands behind entries none of which does. -/
theorem putBefore_eq {α : Type} (p : α → Bool) (x : α) (l : List α) :
    ∃ before behind, l = before ++ behind ∧ putBefore p x l = before ++ x :: behind ∧ (∀ y ∈ before, p y = false) ∧
      ∀ y ∈ behind.head?, p y = true := by
  induction l with
  | nil => exact ⟨[], [], rfl, rfl, by simp, by simp⟩
  | cons a as ih =>
    by_cases ha : p a = true
    · exact ⟨[], a :: as, rfl, by simp [putBefore, ha], by simp, by simpa using ha⟩
    · simp only [Bool.not_eq_true] at ha
      obtain ⟨before, behind, h₁, h₂, h₃, h₄⟩ := ih
      refine ⟨a :: before, behind, by rw [h₁]; rfl, by simp [putBefore, ha, h₂], ?_, h₄⟩
      intro y hy
      rcases List.mem_cons.mp hy with rfl | hy
      · exact ha
      · exact h₃ y hy

/-- A reordered list is a permutation of the list. -/
theorem reorder_perm {α : Type} (fuel k : Nat) (l : List α) : (reorder fuel k l).Perm l := by
  induction fuel generalizing k l with
  | zero => exact .refl _
  | succ n ih =>
    unfold reorder
    split
    · rename_i y hy
      obtain ⟨h, rfl⟩ := List.getElem?_eq_some_iff.mp hy
      exact ((ih _ _).cons _).trans (List.getElem_cons_eraseIdx_perm h)
    · exact .refl _

/-- A list in a free order is a permutation of the list. -/
theorem State.inFreeOrder_perm {α : Type} (s : State) (l : List α) : (s.inFreeOrder l).Perm l := by
  unfold State.inFreeOrder
  split
  · exact .refl _
  · exact reorder_perm _ _ _

/-- A list in a free order has the entries of the list. -/
theorem State.mem_inFreeOrder {α : Type} (s : State) (l : List α) (x : α) : x ∈ s.inFreeOrder l → x ∈ l :=
  (s.inFreeOrder_perm l).mem_iff.mp

/-- What holds when the free counter advances, and is kept by the action for each member, holds after the action for
each. -/
theorem State.forEachFreely_keeps {α : Type} (P : State → Prop) (s : State) (l : List α) (f : α → State → State)
    (hs : P s) (hd : ∀ n, P { s with drawn := n }) (hf : ∀ x ∈ l, ∀ t, P t → P (f x t)) : P (s.forEachFreely l f) := by
  have hfold : ∀ (m : List α) (t : State), (∀ x ∈ m, x ∈ l) → P t → P (m.foldl (fun t x => f x t) t) := by
    intro m
    induction m with
    | nil => intro t _ h; exact h
    | cons x xs ih =>
      intro t hm h
      exact ih _ (fun y hy => hm y (by simp [hy])) (hf x (hm x (by simp)) t h)
  unfold State.forEachFreely State.afterFreeOrder
  refine hfold _ _ (fun x hx => State.mem_inFreeOrder s l x hx) ?_
  split
  · exact hs
  · exact hd _

/-- An action for no member changes nothing. -/
@[simp] theorem State.forEachFreely_nil {α : Type} (s : State) (f : α → State → State) : s.forEachFreely [] f = s := by
  simp [State.forEachFreely, State.inFreeOrder, State.afterFreeOrder]

/-- An action for the one member of a list is that action. -/
@[simp] theorem State.forEachFreely_one {α : Type} (s : State) (x : α) (f : α → State → State) :
    s.forEachFreely [x] f = f x s := by
  simp [State.forEachFreely, State.inFreeOrder, State.afterFreeOrder]

end Sys2Proof.Machine
end

