-- ==== Sys2Proof/Laws/State.lean ====
section
/-! SUPPORT. What each update of one record of State leaves of every other field, and what it makes of its own: the lemmas
with which no later proof unfolds an update. -/

namespace Sys2Proof.Machine

/-! ### setVat -/

@[simp] theorem State.setVat_clock (s : State) (v : Vat) (r : VatRecord) : (s.setVat v r).clock = s.clock := rfl
@[simp] theorem State.setVat_inReset (s : State) (v : Vat) (r : VatRecord) : (s.setVat v r).inReset = s.inReset := rfl
@[simp] theorem State.setVat_straps (s : State) (v : Vat) (r : VatRecord) : (s.setVat v r).straps = s.straps := rfl
@[simp] theorem State.setVat_edit (s : State) (v : Vat) (r : VatRecord) : (s.setVat v r).edit = s.edit := rfl
@[simp] theorem State.setVat_proved (s : State) (v : Vat) (r : VatRecord) : (s.setVat v r).proved = s.proved := rfl
@[simp] theorem State.setVat_slotMap (s : State) (v : Vat) (r : VatRecord) : (s.setVat v r).slotMap = s.slotMap := rfl
@[simp] theorem State.setVat_settings (s : State) (v : Vat) (r : VatRecord) : (s.setVat v r).settings = s.settings := rfl
@[simp] theorem State.setVat_frozen (s : State) (v : Vat) (r : VatRecord) : (s.setVat v r).frozen = s.frozen := rfl
@[simp] theorem State.setVat_restartAccepted (s : State) (v : Vat) (r : VatRecord) : (s.setVat v r).restartAccepted = s.restartAccepted := rfl
@[simp] theorem State.setVat_banks (s : State) (v : Vat) (r : VatRecord) : (s.setVat v r).banks = s.banks := rfl
@[simp] theorem State.setVat_urgent (s : State) (v : Vat) (r : VatRecord) : (s.setVat v r).urgent = s.urgent := rfl
@[simp] theorem State.setVat_openList (s : State) (v : Vat) (r : VatRecord) : (s.setVat v r).openList = s.openList := rfl
@[simp] theorem State.setVat_carriages (s : State) (v : Vat) (r : VatRecord) : (s.setVat v r).carriages = s.carriages := rfl
@[simp] theorem State.setVat_tagCounter (s : State) (v : Vat) (r : VatRecord) : (s.setVat v r).tagCounter = s.tagCounter := rfl
@[simp] theorem State.setVat_lateTags (s : State) (v : Vat) (r : VatRecord) : (s.setVat v r).lateTags = s.lateTags := rfl
@[simp] theorem State.setVat_routinePause (s : State) (v : Vat) (r : VatRecord) : (s.setVat v r).routinePause = s.routinePause := rfl
@[simp] theorem State.setVat_lastGranted (s : State) (v : Vat) (r : VatRecord) : (s.setVat v r).lastGranted = s.lastGranted := rfl
@[simp] theorem State.setVat_line (s : State) (v : Vat) (r : VatRecord) : (s.setVat v r).line = s.line := rfl
@[simp] theorem State.setVat_lateList (s : State) (v : Vat) (r : VatRecord) : (s.setVat v r).lateList = s.lateList := rfl
@[simp] theorem State.setVat_routine (s : State) (v : Vat) (r : VatRecord) : (s.setVat v r).routine = s.routine := rfl
@[simp] theorem State.setVat_lots (s : State) (v : Vat) (r : VatRecord) : (s.setVat v r).lots = s.lots := rfl
@[simp] theorem State.setVat_window (s : State) (v : Vat) (r : VatRecord) : (s.setVat v r).window = s.window := rfl
@[simp] theorem State.setVat_links (s : State) (v : Vat) (r : VatRecord) : (s.setVat v r).links = s.links := rfl
@[simp] theorem State.setVat_drawn (s : State) (v : Vat) (r : VatRecord) : (s.setVat v r).drawn = s.drawn := rfl
@[simp] theorem State.setVat_pending (s : State) (v : Vat) (r : VatRecord) : (s.setVat v r).pending = s.pending := rfl
@[simp] theorem State.setVat_bank (s : State) (v : Vat) (r : VatRecord) (w : Bank) :
    (s.setVat v r).bank w = s.bank w := rfl
@[simp] theorem State.setVat_carriage (s : State) (v : Vat) (r : VatRecord) (w : Carriage) :
    (s.setVat v r).carriage w = s.carriage w := rfl
@[simp] theorem State.setVat_link (s : State) (v : Vat) (r : VatRecord) (w : Link) :
    (s.setVat v r).link w = s.link w := rfl

/-! ### modVat -/

@[simp] theorem State.modVat_clock (s : State) (v : Vat) (f : VatRecord → VatRecord) : (s.modVat v f).clock = s.clock := rfl
@[simp] theorem State.modVat_inReset (s : State) (v : Vat) (f : VatRecord → VatRecord) : (s.modVat v f).inReset = s.inReset := rfl
@[simp] theorem State.modVat_straps (s : State) (v : Vat) (f : VatRecord → VatRecord) : (s.modVat v f).straps = s.straps := rfl
@[simp] theorem State.modVat_edit (s : State) (v : Vat) (f : VatRecord → VatRecord) : (s.modVat v f).edit = s.edit := rfl
@[simp] theorem State.modVat_proved (s : State) (v : Vat) (f : VatRecord → VatRecord) : (s.modVat v f).proved = s.proved := rfl
@[simp] theorem State.modVat_slotMap (s : State) (v : Vat) (f : VatRecord → VatRecord) : (s.modVat v f).slotMap = s.slotMap := rfl
@[simp] theorem State.modVat_settings (s : State) (v : Vat) (f : VatRecord → VatRecord) : (s.modVat v f).settings = s.settings := rfl
@[simp] theorem State.modVat_frozen (s : State) (v : Vat) (f : VatRecord → VatRecord) : (s.modVat v f).frozen = s.frozen := rfl
@[simp] theorem State.modVat_restartAccepted (s : State) (v : Vat) (f : VatRecord → VatRecord) : (s.modVat v f).restartAccepted = s.restartAccepted := rfl
@[simp] theorem State.modVat_banks (s : State) (v : Vat) (f : VatRecord → VatRecord) : (s.modVat v f).banks = s.banks := rfl
@[simp] theorem State.modVat_urgent (s : State) (v : Vat) (f : VatRecord → VatRecord) : (s.modVat v f).urgent = s.urgent := rfl
@[simp] theorem State.modVat_openList (s : State) (v : Vat) (f : VatRecord → VatRecord) : (s.modVat v f).openList = s.openList := rfl
@[simp] theorem State.modVat_carriages (s : State) (v : Vat) (f : VatRecord → VatRecord) : (s.modVat v f).carriages = s.carriages := rfl
@[simp] theorem State.modVat_tagCounter (s : State) (v : Vat) (f : VatRecord → VatRecord) : (s.modVat v f).tagCounter = s.tagCounter := rfl
@[simp] theorem State.modVat_lateTags (s : State) (v : Vat) (f : VatRecord → VatRecord) : (s.modVat v f).lateTags = s.lateTags := rfl
@[simp] theorem State.modVat_routinePause (s : State) (v : Vat) (f : VatRecord → VatRecord) : (s.modVat v f).routinePause = s.routinePause := rfl
@[simp] theorem State.modVat_lastGranted (s : State) (v : Vat) (f : VatRecord → VatRecord) : (s.modVat v f).lastGranted = s.lastGranted := rfl
@[simp] theorem State.modVat_line (s : State) (v : Vat) (f : VatRecord → VatRecord) : (s.modVat v f).line = s.line := rfl
@[simp] theorem State.modVat_lateList (s : State) (v : Vat) (f : VatRecord → VatRecord) : (s.modVat v f).lateList = s.lateList := rfl
@[simp] theorem State.modVat_routine (s : State) (v : Vat) (f : VatRecord → VatRecord) : (s.modVat v f).routine = s.routine := rfl
@[simp] theorem State.modVat_lots (s : State) (v : Vat) (f : VatRecord → VatRecord) : (s.modVat v f).lots = s.lots := rfl
@[simp] theorem State.modVat_window (s : State) (v : Vat) (f : VatRecord → VatRecord) : (s.modVat v f).window = s.window := rfl
@[simp] theorem State.modVat_links (s : State) (v : Vat) (f : VatRecord → VatRecord) : (s.modVat v f).links = s.links := rfl
@[simp] theorem State.modVat_drawn (s : State) (v : Vat) (f : VatRecord → VatRecord) : (s.modVat v f).drawn = s.drawn := rfl
@[simp] theorem State.modVat_pending (s : State) (v : Vat) (f : VatRecord → VatRecord) : (s.modVat v f).pending = s.pending := rfl
@[simp] theorem State.modVat_bank (s : State) (v : Vat) (f : VatRecord → VatRecord) (w : Bank) :
    (s.modVat v f).bank w = s.bank w := rfl
@[simp] theorem State.modVat_carriage (s : State) (v : Vat) (f : VatRecord → VatRecord) (w : Carriage) :
    (s.modVat v f).carriage w = s.carriage w := rfl
@[simp] theorem State.modVat_link (s : State) (v : Vat) (f : VatRecord → VatRecord) (w : Link) :
    (s.modVat v f).link w = s.link w := rfl

/-! ### setBank -/

@[simp] theorem State.setBank_clock (s : State) (b : Bank) (k : BankRecord) : (s.setBank b k).clock = s.clock := rfl
@[simp] theorem State.setBank_inReset (s : State) (b : Bank) (k : BankRecord) : (s.setBank b k).inReset = s.inReset := rfl
@[simp] theorem State.setBank_straps (s : State) (b : Bank) (k : BankRecord) : (s.setBank b k).straps = s.straps := rfl
@[simp] theorem State.setBank_edit (s : State) (b : Bank) (k : BankRecord) : (s.setBank b k).edit = s.edit := rfl
@[simp] theorem State.setBank_proved (s : State) (b : Bank) (k : BankRecord) : (s.setBank b k).proved = s.proved := rfl
@[simp] theorem State.setBank_vats (s : State) (b : Bank) (k : BankRecord) : (s.setBank b k).vats = s.vats := rfl
@[simp] theorem State.setBank_slotMap (s : State) (b : Bank) (k : BankRecord) : (s.setBank b k).slotMap = s.slotMap := rfl
@[simp] theorem State.setBank_settings (s : State) (b : Bank) (k : BankRecord) : (s.setBank b k).settings = s.settings := rfl
@[simp] theorem State.setBank_frozen (s : State) (b : Bank) (k : BankRecord) : (s.setBank b k).frozen = s.frozen := rfl
@[simp] theorem State.setBank_restartAccepted (s : State) (b : Bank) (k : BankRecord) : (s.setBank b k).restartAccepted = s.restartAccepted := rfl
@[simp] theorem State.setBank_urgent (s : State) (b : Bank) (k : BankRecord) : (s.setBank b k).urgent = s.urgent := rfl
@[simp] theorem State.setBank_openList (s : State) (b : Bank) (k : BankRecord) : (s.setBank b k).openList = s.openList := rfl
@[simp] theorem State.setBank_carriages (s : State) (b : Bank) (k : BankRecord) : (s.setBank b k).carriages = s.carriages := rfl
@[simp] theorem State.setBank_tagCounter (s : State) (b : Bank) (k : BankRecord) : (s.setBank b k).tagCounter = s.tagCounter := rfl
@[simp] theorem State.setBank_lateTags (s : State) (b : Bank) (k : BankRecord) : (s.setBank b k).lateTags = s.lateTags := rfl
@[simp] theorem State.setBank_routinePause (s : State) (b : Bank) (k : BankRecord) : (s.setBank b k).routinePause = s.routinePause := rfl
@[simp] theorem State.setBank_lastGranted (s : State) (b : Bank) (k : BankRecord) : (s.setBank b k).lastGranted = s.lastGranted := rfl
@[simp] theorem State.setBank_line (s : State) (b : Bank) (k : BankRecord) : (s.setBank b k).line = s.line := rfl
@[simp] theorem State.setBank_lateList (s : State) (b : Bank) (k : BankRecord) : (s.setBank b k).lateList = s.lateList := rfl
@[simp] theorem State.setBank_routine (s : State) (b : Bank) (k : BankRecord) : (s.setBank b k).routine = s.routine := rfl
@[simp] theorem State.setBank_lots (s : State) (b : Bank) (k : BankRecord) : (s.setBank b k).lots = s.lots := rfl
@[simp] theorem State.setBank_window (s : State) (b : Bank) (k : BankRecord) : (s.setBank b k).window = s.window := rfl
@[simp] theorem State.setBank_links (s : State) (b : Bank) (k : BankRecord) : (s.setBank b k).links = s.links := rfl
@[simp] theorem State.setBank_drawn (s : State) (b : Bank) (k : BankRecord) : (s.setBank b k).drawn = s.drawn := rfl
@[simp] theorem State.setBank_pending (s : State) (b : Bank) (k : BankRecord) : (s.setBank b k).pending = s.pending := rfl
@[simp] theorem State.setBank_vat (s : State) (b : Bank) (k : BankRecord) (w : Vat) :
    (s.setBank b k).vat w = s.vat w := rfl
@[simp] theorem State.setBank_carriage (s : State) (b : Bank) (k : BankRecord) (w : Carriage) :
    (s.setBank b k).carriage w = s.carriage w := rfl
@[simp] theorem State.setBank_link (s : State) (b : Bank) (k : BankRecord) (w : Link) :
    (s.setBank b k).link w = s.link w := rfl

/-! ### modBank -/

@[simp] theorem State.modBank_clock (s : State) (b : Bank) (f : BankRecord → BankRecord) : (s.modBank b f).clock = s.clock := rfl
@[simp] theorem State.modBank_inReset (s : State) (b : Bank) (f : BankRecord → BankRecord) : (s.modBank b f).inReset = s.inReset := rfl
@[simp] theorem State.modBank_straps (s : State) (b : Bank) (f : BankRecord → BankRecord) : (s.modBank b f).straps = s.straps := rfl
@[simp] theorem State.modBank_edit (s : State) (b : Bank) (f : BankRecord → BankRecord) : (s.modBank b f).edit = s.edit := rfl
@[simp] theorem State.modBank_proved (s : State) (b : Bank) (f : BankRecord → BankRecord) : (s.modBank b f).proved = s.proved := rfl
@[simp] theorem State.modBank_vats (s : State) (b : Bank) (f : BankRecord → BankRecord) : (s.modBank b f).vats = s.vats := rfl
@[simp] theorem State.modBank_slotMap (s : State) (b : Bank) (f : BankRecord → BankRecord) : (s.modBank b f).slotMap = s.slotMap := rfl
@[simp] theorem State.modBank_settings (s : State) (b : Bank) (f : BankRecord → BankRecord) : (s.modBank b f).settings = s.settings := rfl
@[simp] theorem State.modBank_frozen (s : State) (b : Bank) (f : BankRecord → BankRecord) : (s.modBank b f).frozen = s.frozen := rfl
@[simp] theorem State.modBank_restartAccepted (s : State) (b : Bank) (f : BankRecord → BankRecord) : (s.modBank b f).restartAccepted = s.restartAccepted := rfl
@[simp] theorem State.modBank_urgent (s : State) (b : Bank) (f : BankRecord → BankRecord) : (s.modBank b f).urgent = s.urgent := rfl
@[simp] theorem State.modBank_openList (s : State) (b : Bank) (f : BankRecord → BankRecord) : (s.modBank b f).openList = s.openList := rfl
@[simp] theorem State.modBank_carriages (s : State) (b : Bank) (f : BankRecord → BankRecord) : (s.modBank b f).carriages = s.carriages := rfl
@[simp] theorem State.modBank_tagCounter (s : State) (b : Bank) (f : BankRecord → BankRecord) : (s.modBank b f).tagCounter = s.tagCounter := rfl
@[simp] theorem State.modBank_lateTags (s : State) (b : Bank) (f : BankRecord → BankRecord) : (s.modBank b f).lateTags = s.lateTags := rfl
@[simp] theorem State.modBank_routinePause (s : State) (b : Bank) (f : BankRecord → BankRecord) : (s.modBank b f).routinePause = s.routinePause := rfl
@[simp] theorem State.modBank_lastGranted (s : State) (b : Bank) (f : BankRecord → BankRecord) : (s.modBank b f).lastGranted = s.lastGranted := rfl
@[simp] theorem State.modBank_line (s : State) (b : Bank) (f : BankRecord → BankRecord) : (s.modBank b f).line = s.line := rfl
@[simp] theorem State.modBank_lateList (s : State) (b : Bank) (f : BankRecord → BankRecord) : (s.modBank b f).lateList = s.lateList := rfl
@[simp] theorem State.modBank_routine (s : State) (b : Bank) (f : BankRecord → BankRecord) : (s.modBank b f).routine = s.routine := rfl
@[simp] theorem State.modBank_lots (s : State) (b : Bank) (f : BankRecord → BankRecord) : (s.modBank b f).lots = s.lots := rfl
@[simp] theorem State.modBank_window (s : State) (b : Bank) (f : BankRecord → BankRecord) : (s.modBank b f).window = s.window := rfl
@[simp] theorem State.modBank_links (s : State) (b : Bank) (f : BankRecord → BankRecord) : (s.modBank b f).links = s.links := rfl
@[simp] theorem State.modBank_drawn (s : State) (b : Bank) (f : BankRecord → BankRecord) : (s.modBank b f).drawn = s.drawn := rfl
@[simp] theorem State.modBank_pending (s : State) (b : Bank) (f : BankRecord → BankRecord) : (s.modBank b f).pending = s.pending := rfl
@[simp] theorem State.modBank_vat (s : State) (b : Bank) (f : BankRecord → BankRecord) (w : Vat) :
    (s.modBank b f).vat w = s.vat w := rfl
@[simp] theorem State.modBank_carriage (s : State) (b : Bank) (f : BankRecord → BankRecord) (w : Carriage) :
    (s.modBank b f).carriage w = s.carriage w := rfl
@[simp] theorem State.modBank_link (s : State) (b : Bank) (f : BankRecord → BankRecord) (w : Link) :
    (s.modBank b f).link w = s.link w := rfl

/-! ### setCarriage -/

@[simp] theorem State.setCarriage_clock (s : State) (c : Carriage) (k : CarriageRecord) : (s.setCarriage c k).clock = s.clock := rfl
@[simp] theorem State.setCarriage_inReset (s : State) (c : Carriage) (k : CarriageRecord) : (s.setCarriage c k).inReset = s.inReset := rfl
@[simp] theorem State.setCarriage_straps (s : State) (c : Carriage) (k : CarriageRecord) : (s.setCarriage c k).straps = s.straps := rfl
@[simp] theorem State.setCarriage_edit (s : State) (c : Carriage) (k : CarriageRecord) : (s.setCarriage c k).edit = s.edit := rfl
@[simp] theorem State.setCarriage_proved (s : State) (c : Carriage) (k : CarriageRecord) : (s.setCarriage c k).proved = s.proved := rfl
@[simp] theorem State.setCarriage_vats (s : State) (c : Carriage) (k : CarriageRecord) : (s.setCarriage c k).vats = s.vats := rfl
@[simp] theorem State.setCarriage_slotMap (s : State) (c : Carriage) (k : CarriageRecord) : (s.setCarriage c k).slotMap = s.slotMap := rfl
@[simp] theorem State.setCarriage_settings (s : State) (c : Carriage) (k : CarriageRecord) : (s.setCarriage c k).settings = s.settings := rfl
@[simp] theorem State.setCarriage_frozen (s : State) (c : Carriage) (k : CarriageRecord) : (s.setCarriage c k).frozen = s.frozen := rfl
@[simp] theorem State.setCarriage_restartAccepted (s : State) (c : Carriage) (k : CarriageRecord) : (s.setCarriage c k).restartAccepted = s.restartAccepted := rfl
@[simp] theorem State.setCarriage_banks (s : State) (c : Carriage) (k : CarriageRecord) : (s.setCarriage c k).banks = s.banks := rfl
@[simp] theorem State.setCarriage_urgent (s : State) (c : Carriage) (k : CarriageRecord) : (s.setCarriage c k).urgent = s.urgent := rfl
@[simp] theorem State.setCarriage_openList (s : State) (c : Carriage) (k : CarriageRecord) : (s.setCarriage c k).openList = s.openList := rfl
@[simp] theorem State.setCarriage_tagCounter (s : State) (c : Carriage) (k : CarriageRecord) : (s.setCarriage c k).tagCounter = s.tagCounter := rfl
@[simp] theorem State.setCarriage_lateTags (s : State) (c : Carriage) (k : CarriageRecord) : (s.setCarriage c k).lateTags = s.lateTags := rfl
@[simp] theorem State.setCarriage_routinePause (s : State) (c : Carriage) (k : CarriageRecord) : (s.setCarriage c k).routinePause = s.routinePause := rfl
@[simp] theorem State.setCarriage_lastGranted (s : State) (c : Carriage) (k : CarriageRecord) : (s.setCarriage c k).lastGranted = s.lastGranted := rfl
@[simp] theorem State.setCarriage_line (s : State) (c : Carriage) (k : CarriageRecord) : (s.setCarriage c k).line = s.line := rfl
@[simp] theorem State.setCarriage_lateList (s : State) (c : Carriage) (k : CarriageRecord) : (s.setCarriage c k).lateList = s.lateList := rfl
@[simp] theorem State.setCarriage_routine (s : State) (c : Carriage) (k : CarriageRecord) : (s.setCarriage c k).routine = s.routine := rfl
@[simp] theorem State.setCarriage_lots (s : State) (c : Carriage) (k : CarriageRecord) : (s.setCarriage c k).lots = s.lots := rfl
@[simp] theorem State.setCarriage_window (s : State) (c : Carriage) (k : CarriageRecord) : (s.setCarriage c k).window = s.window := rfl
@[simp] theorem State.setCarriage_links (s : State) (c : Carriage) (k : CarriageRecord) : (s.setCarriage c k).links = s.links := rfl
@[simp] theorem State.setCarriage_drawn (s : State) (c : Carriage) (k : CarriageRecord) : (s.setCarriage c k).drawn = s.drawn := rfl
@[simp] theorem State.setCarriage_pending (s : State) (c : Carriage) (k : CarriageRecord) : (s.setCarriage c k).pending = s.pending := rfl
@[simp] theorem State.setCarriage_vat (s : State) (c : Carriage) (k : CarriageRecord) (w : Vat) :
    (s.setCarriage c k).vat w = s.vat w := rfl
@[simp] theorem State.setCarriage_bank (s : State) (c : Carriage) (k : CarriageRecord) (w : Bank) :
    (s.setCarriage c k).bank w = s.bank w := rfl
@[simp] theorem State.setCarriage_link (s : State) (c : Carriage) (k : CarriageRecord) (w : Link) :
    (s.setCarriage c k).link w = s.link w := rfl

/-! ### modCarriage -/

@[simp] theorem State.modCarriage_clock (s : State) (c : Carriage) (f : CarriageRecord → CarriageRecord) : (s.modCarriage c f).clock = s.clock := rfl
@[simp] theorem State.modCarriage_inReset (s : State) (c : Carriage) (f : CarriageRecord → CarriageRecord) : (s.modCarriage c f).inReset = s.inReset := rfl
@[simp] theorem State.modCarriage_straps (s : State) (c : Carriage) (f : CarriageRecord → CarriageRecord) : (s.modCarriage c f).straps = s.straps := rfl
@[simp] theorem State.modCarriage_edit (s : State) (c : Carriage) (f : CarriageRecord → CarriageRecord) : (s.modCarriage c f).edit = s.edit := rfl
@[simp] theorem State.modCarriage_proved (s : State) (c : Carriage) (f : CarriageRecord → CarriageRecord) : (s.modCarriage c f).proved = s.proved := rfl
@[simp] theorem State.modCarriage_vats (s : State) (c : Carriage) (f : CarriageRecord → CarriageRecord) : (s.modCarriage c f).vats = s.vats := rfl
@[simp] theorem State.modCarriage_slotMap (s : State) (c : Carriage) (f : CarriageRecord → CarriageRecord) : (s.modCarriage c f).slotMap = s.slotMap := rfl
@[simp] theorem State.modCarriage_settings (s : State) (c : Carriage) (f : CarriageRecord → CarriageRecord) : (s.modCarriage c f).settings = s.settings := rfl
@[simp] theorem State.modCarriage_frozen (s : State) (c : Carriage) (f : CarriageRecord → CarriageRecord) : (s.modCarriage c f).frozen = s.frozen := rfl
@[simp] theorem State.modCarriage_restartAccepted (s : State) (c : Carriage) (f : CarriageRecord → CarriageRecord) : (s.modCarriage c f).restartAccepted = s.restartAccepted := rfl
@[simp] theorem State.modCarriage_banks (s : State) (c : Carriage) (f : CarriageRecord → CarriageRecord) : (s.modCarriage c f).banks = s.banks := rfl
@[simp] theorem State.modCarriage_urgent (s : State) (c : Carriage) (f : CarriageRecord → CarriageRecord) : (s.modCarriage c f).urgent = s.urgent := rfl
@[simp] theorem State.modCarriage_openList (s : State) (c : Carriage) (f : CarriageRecord → CarriageRecord) : (s.modCarriage c f).openList = s.openList := rfl
@[simp] theorem State.modCarriage_tagCounter (s : State) (c : Carriage) (f : CarriageRecord → CarriageRecord) : (s.modCarriage c f).tagCounter = s.tagCounter := rfl
@[simp] theorem State.modCarriage_lateTags (s : State) (c : Carriage) (f : CarriageRecord → CarriageRecord) : (s.modCarriage c f).lateTags = s.lateTags := rfl
@[simp] theorem State.modCarriage_routinePause (s : State) (c : Carriage) (f : CarriageRecord → CarriageRecord) : (s.modCarriage c f).routinePause = s.routinePause := rfl
@[simp] theorem State.modCarriage_lastGranted (s : State) (c : Carriage) (f : CarriageRecord → CarriageRecord) : (s.modCarriage c f).lastGranted = s.lastGranted := rfl
@[simp] theorem State.modCarriage_line (s : State) (c : Carriage) (f : CarriageRecord → CarriageRecord) : (s.modCarriage c f).line = s.line := rfl
@[simp] theorem State.modCarriage_lateList (s : State) (c : Carriage) (f : CarriageRecord → CarriageRecord) : (s.modCarriage c f).lateList = s.lateList := rfl
@[simp] theorem State.modCarriage_routine (s : State) (c : Carriage) (f : CarriageRecord → CarriageRecord) : (s.modCarriage c f).routine = s.routine := rfl
@[simp] theorem State.modCarriage_lots (s : State) (c : Carriage) (f : CarriageRecord → CarriageRecord) : (s.modCarriage c f).lots = s.lots := rfl
@[simp] theorem State.modCarriage_window (s : State) (c : Carriage) (f : CarriageRecord → CarriageRecord) : (s.modCarriage c f).window = s.window := rfl
@[simp] theorem State.modCarriage_links (s : State) (c : Carriage) (f : CarriageRecord → CarriageRecord) : (s.modCarriage c f).links = s.links := rfl
@[simp] theorem State.modCarriage_drawn (s : State) (c : Carriage) (f : CarriageRecord → CarriageRecord) : (s.modCarriage c f).drawn = s.drawn := rfl
@[simp] theorem State.modCarriage_pending (s : State) (c : Carriage) (f : CarriageRecord → CarriageRecord) : (s.modCarriage c f).pending = s.pending := rfl
@[simp] theorem State.modCarriage_vat (s : State) (c : Carriage) (f : CarriageRecord → CarriageRecord) (w : Vat) :
    (s.modCarriage c f).vat w = s.vat w := rfl
@[simp] theorem State.modCarriage_bank (s : State) (c : Carriage) (f : CarriageRecord → CarriageRecord) (w : Bank) :
    (s.modCarriage c f).bank w = s.bank w := rfl
@[simp] theorem State.modCarriage_link (s : State) (c : Carriage) (f : CarriageRecord → CarriageRecord) (w : Link) :
    (s.modCarriage c f).link w = s.link w := rfl

/-! ### setLink -/

@[simp] theorem State.setLink_clock (s : State) (l : Link) (u : LinkUnit) : (s.setLink l u).clock = s.clock := rfl
@[simp] theorem State.setLink_inReset (s : State) (l : Link) (u : LinkUnit) : (s.setLink l u).inReset = s.inReset := rfl
@[simp] theorem State.setLink_straps (s : State) (l : Link) (u : LinkUnit) : (s.setLink l u).straps = s.straps := rfl
@[simp] theorem State.setLink_edit (s : State) (l : Link) (u : LinkUnit) : (s.setLink l u).edit = s.edit := rfl
@[simp] theorem State.setLink_proved (s : State) (l : Link) (u : LinkUnit) : (s.setLink l u).proved = s.proved := rfl
@[simp] theorem State.setLink_vats (s : State) (l : Link) (u : LinkUnit) : (s.setLink l u).vats = s.vats := rfl
@[simp] theorem State.setLink_slotMap (s : State) (l : Link) (u : LinkUnit) : (s.setLink l u).slotMap = s.slotMap := rfl
@[simp] theorem State.setLink_settings (s : State) (l : Link) (u : LinkUnit) : (s.setLink l u).settings = s.settings := rfl
@[simp] theorem State.setLink_frozen (s : State) (l : Link) (u : LinkUnit) : (s.setLink l u).frozen = s.frozen := rfl
@[simp] theorem State.setLink_restartAccepted (s : State) (l : Link) (u : LinkUnit) : (s.setLink l u).restartAccepted = s.restartAccepted := rfl
@[simp] theorem State.setLink_banks (s : State) (l : Link) (u : LinkUnit) : (s.setLink l u).banks = s.banks := rfl
@[simp] theorem State.setLink_urgent (s : State) (l : Link) (u : LinkUnit) : (s.setLink l u).urgent = s.urgent := rfl
@[simp] theorem State.setLink_openList (s : State) (l : Link) (u : LinkUnit) : (s.setLink l u).openList = s.openList := rfl
@[simp] theorem State.setLink_carriages (s : State) (l : Link) (u : LinkUnit) : (s.setLink l u).carriages = s.carriages := rfl
@[simp] theorem State.setLink_tagCounter (s : State) (l : Link) (u : LinkUnit) : (s.setLink l u).tagCounter = s.tagCounter := rfl
@[simp] theorem State.setLink_lateTags (s : State) (l : Link) (u : LinkUnit) : (s.setLink l u).lateTags = s.lateTags := rfl
@[simp] theorem State.setLink_routinePause (s : State) (l : Link) (u : LinkUnit) : (s.setLink l u).routinePause = s.routinePause := rfl
@[simp] theorem State.setLink_lastGranted (s : State) (l : Link) (u : LinkUnit) : (s.setLink l u).lastGranted = s.lastGranted := rfl
@[simp] theorem State.setLink_line (s : State) (l : Link) (u : LinkUnit) : (s.setLink l u).line = s.line := rfl
@[simp] theorem State.setLink_lateList (s : State) (l : Link) (u : LinkUnit) : (s.setLink l u).lateList = s.lateList := rfl
@[simp] theorem State.setLink_routine (s : State) (l : Link) (u : LinkUnit) : (s.setLink l u).routine = s.routine := rfl
@[simp] theorem State.setLink_lots (s : State) (l : Link) (u : LinkUnit) : (s.setLink l u).lots = s.lots := rfl
@[simp] theorem State.setLink_window (s : State) (l : Link) (u : LinkUnit) : (s.setLink l u).window = s.window := rfl
@[simp] theorem State.setLink_drawn (s : State) (l : Link) (u : LinkUnit) : (s.setLink l u).drawn = s.drawn := rfl
@[simp] theorem State.setLink_pending (s : State) (l : Link) (u : LinkUnit) : (s.setLink l u).pending = s.pending := rfl
@[simp] theorem State.setLink_vat (s : State) (l : Link) (u : LinkUnit) (w : Vat) :
    (s.setLink l u).vat w = s.vat w := rfl
@[simp] theorem State.setLink_bank (s : State) (l : Link) (u : LinkUnit) (w : Bank) :
    (s.setLink l u).bank w = s.bank w := rfl
@[simp] theorem State.setLink_carriage (s : State) (l : Link) (u : LinkUnit) (w : Carriage) :
    (s.setLink l u).carriage w = s.carriage w := rfl

/-! ### modLink -/

@[simp] theorem State.modLink_clock (s : State) (l : Link) (f : LinkUnit → LinkUnit) : (s.modLink l f).clock = s.clock := rfl
@[simp] theorem State.modLink_inReset (s : State) (l : Link) (f : LinkUnit → LinkUnit) : (s.modLink l f).inReset = s.inReset := rfl
@[simp] theorem State.modLink_straps (s : State) (l : Link) (f : LinkUnit → LinkUnit) : (s.modLink l f).straps = s.straps := rfl
@[simp] theorem State.modLink_edit (s : State) (l : Link) (f : LinkUnit → LinkUnit) : (s.modLink l f).edit = s.edit := rfl
@[simp] theorem State.modLink_proved (s : State) (l : Link) (f : LinkUnit → LinkUnit) : (s.modLink l f).proved = s.proved := rfl
@[simp] theorem State.modLink_vats (s : State) (l : Link) (f : LinkUnit → LinkUnit) : (s.modLink l f).vats = s.vats := rfl
@[simp] theorem State.modLink_slotMap (s : State) (l : Link) (f : LinkUnit → LinkUnit) : (s.modLink l f).slotMap = s.slotMap := rfl
@[simp] theorem State.modLink_settings (s : State) (l : Link) (f : LinkUnit → LinkUnit) : (s.modLink l f).settings = s.settings := rfl
@[simp] theorem State.modLink_frozen (s : State) (l : Link) (f : LinkUnit → LinkUnit) : (s.modLink l f).frozen = s.frozen := rfl
@[simp] theorem State.modLink_restartAccepted (s : State) (l : Link) (f : LinkUnit → LinkUnit) : (s.modLink l f).restartAccepted = s.restartAccepted := rfl
@[simp] theorem State.modLink_banks (s : State) (l : Link) (f : LinkUnit → LinkUnit) : (s.modLink l f).banks = s.banks := rfl
@[simp] theorem State.modLink_urgent (s : State) (l : Link) (f : LinkUnit → LinkUnit) : (s.modLink l f).urgent = s.urgent := rfl
@[simp] theorem State.modLink_openList (s : State) (l : Link) (f : LinkUnit → LinkUnit) : (s.modLink l f).openList = s.openList := rfl
@[simp] theorem State.modLink_carriages (s : State) (l : Link) (f : LinkUnit → LinkUnit) : (s.modLink l f).carriages = s.carriages := rfl
@[simp] theorem State.modLink_tagCounter (s : State) (l : Link) (f : LinkUnit → LinkUnit) : (s.modLink l f).tagCounter = s.tagCounter := rfl
@[simp] theorem State.modLink_lateTags (s : State) (l : Link) (f : LinkUnit → LinkUnit) : (s.modLink l f).lateTags = s.lateTags := rfl
@[simp] theorem State.modLink_routinePause (s : State) (l : Link) (f : LinkUnit → LinkUnit) : (s.modLink l f).routinePause = s.routinePause := rfl
@[simp] theorem State.modLink_lastGranted (s : State) (l : Link) (f : LinkUnit → LinkUnit) : (s.modLink l f).lastGranted = s.lastGranted := rfl
@[simp] theorem State.modLink_line (s : State) (l : Link) (f : LinkUnit → LinkUnit) : (s.modLink l f).line = s.line := rfl
@[simp] theorem State.modLink_lateList (s : State) (l : Link) (f : LinkUnit → LinkUnit) : (s.modLink l f).lateList = s.lateList := rfl
@[simp] theorem State.modLink_routine (s : State) (l : Link) (f : LinkUnit → LinkUnit) : (s.modLink l f).routine = s.routine := rfl
@[simp] theorem State.modLink_lots (s : State) (l : Link) (f : LinkUnit → LinkUnit) : (s.modLink l f).lots = s.lots := rfl
@[simp] theorem State.modLink_window (s : State) (l : Link) (f : LinkUnit → LinkUnit) : (s.modLink l f).window = s.window := rfl
@[simp] theorem State.modLink_drawn (s : State) (l : Link) (f : LinkUnit → LinkUnit) : (s.modLink l f).drawn = s.drawn := rfl
@[simp] theorem State.modLink_pending (s : State) (l : Link) (f : LinkUnit → LinkUnit) : (s.modLink l f).pending = s.pending := rfl
@[simp] theorem State.modLink_vat (s : State) (l : Link) (f : LinkUnit → LinkUnit) (w : Vat) :
    (s.modLink l f).vat w = s.vat w := rfl
@[simp] theorem State.modLink_bank (s : State) (l : Link) (f : LinkUnit → LinkUnit) (w : Bank) :
    (s.modLink l f).bank w = s.bank w := rfl
@[simp] theorem State.modLink_carriage (s : State) (l : Link) (f : LinkUnit → LinkUnit) (w : Carriage) :
    (s.modLink l f).carriage w = s.carriage w := rfl

/-! ### modLine -/

@[simp] theorem State.modLine_clock (s : State) (f : LineRecord → LineRecord) : (s.modLine f).clock = s.clock := rfl
@[simp] theorem State.modLine_inReset (s : State) (f : LineRecord → LineRecord) : (s.modLine f).inReset = s.inReset := rfl
@[simp] theorem State.modLine_straps (s : State) (f : LineRecord → LineRecord) : (s.modLine f).straps = s.straps := rfl
@[simp] theorem State.modLine_edit (s : State) (f : LineRecord → LineRecord) : (s.modLine f).edit = s.edit := rfl
@[simp] theorem State.modLine_proved (s : State) (f : LineRecord → LineRecord) : (s.modLine f).proved = s.proved := rfl
@[simp] theorem State.modLine_vats (s : State) (f : LineRecord → LineRecord) : (s.modLine f).vats = s.vats := rfl
@[simp] theorem State.modLine_slotMap (s : State) (f : LineRecord → LineRecord) : (s.modLine f).slotMap = s.slotMap := rfl
@[simp] theorem State.modLine_settings (s : State) (f : LineRecord → LineRecord) : (s.modLine f).settings = s.settings := rfl
@[simp] theorem State.modLine_frozen (s : State) (f : LineRecord → LineRecord) : (s.modLine f).frozen = s.frozen := rfl
@[simp] theorem State.modLine_restartAccepted (s : State) (f : LineRecord → LineRecord) : (s.modLine f).restartAccepted = s.restartAccepted := rfl
@[simp] theorem State.modLine_banks (s : State) (f : LineRecord → LineRecord) : (s.modLine f).banks = s.banks := rfl
@[simp] theorem State.modLine_urgent (s : State) (f : LineRecord → LineRecord) : (s.modLine f).urgent = s.urgent := rfl
@[simp] theorem State.modLine_openList (s : State) (f : LineRecord → LineRecord) : (s.modLine f).openList = s.openList := rfl
@[simp] theorem State.modLine_carriages (s : State) (f : LineRecord → LineRecord) : (s.modLine f).carriages = s.carriages := rfl
@[simp] theorem State.modLine_tagCounter (s : State) (f : LineRecord → LineRecord) : (s.modLine f).tagCounter = s.tagCounter := rfl
@[simp] theorem State.modLine_lateTags (s : State) (f : LineRecord → LineRecord) : (s.modLine f).lateTags = s.lateTags := rfl
@[simp] theorem State.modLine_routinePause (s : State) (f : LineRecord → LineRecord) : (s.modLine f).routinePause = s.routinePause := rfl
@[simp] theorem State.modLine_lastGranted (s : State) (f : LineRecord → LineRecord) : (s.modLine f).lastGranted = s.lastGranted := rfl
@[simp] theorem State.modLine_lateList (s : State) (f : LineRecord → LineRecord) : (s.modLine f).lateList = s.lateList := rfl
@[simp] theorem State.modLine_routine (s : State) (f : LineRecord → LineRecord) : (s.modLine f).routine = s.routine := rfl
@[simp] theorem State.modLine_lots (s : State) (f : LineRecord → LineRecord) : (s.modLine f).lots = s.lots := rfl
@[simp] theorem State.modLine_window (s : State) (f : LineRecord → LineRecord) : (s.modLine f).window = s.window := rfl
@[simp] theorem State.modLine_links (s : State) (f : LineRecord → LineRecord) : (s.modLine f).links = s.links := rfl
@[simp] theorem State.modLine_drawn (s : State) (f : LineRecord → LineRecord) : (s.modLine f).drawn = s.drawn := rfl
@[simp] theorem State.modLine_pending (s : State) (f : LineRecord → LineRecord) : (s.modLine f).pending = s.pending := rfl
@[simp] theorem State.modLine_vat (s : State) (f : LineRecord → LineRecord) (w : Vat) :
    (s.modLine f).vat w = s.vat w := rfl
@[simp] theorem State.modLine_bank (s : State) (f : LineRecord → LineRecord) (w : Bank) :
    (s.modLine f).bank w = s.bank w := rfl
@[simp] theorem State.modLine_carriage (s : State) (f : LineRecord → LineRecord) (w : Carriage) :
    (s.modLine f).carriage w = s.carriage w := rfl
@[simp] theorem State.modLine_link (s : State) (f : LineRecord → LineRecord) (w : Link) :
    (s.modLine f).link w = s.link w := rfl
@[simp] theorem State.modLine_line (s : State) (f : LineRecord → LineRecord) : (s.modLine f).line = f s.line := rfl

/-! ### raise -/

@[simp] theorem State.raise_clock (s : State) (l : Link) (n : Notice) : (s.raise l n).clock = s.clock := rfl
@[simp] theorem State.raise_inReset (s : State) (l : Link) (n : Notice) : (s.raise l n).inReset = s.inReset := rfl
@[simp] theorem State.raise_straps (s : State) (l : Link) (n : Notice) : (s.raise l n).straps = s.straps := rfl
@[simp] theorem State.raise_edit (s : State) (l : Link) (n : Notice) : (s.raise l n).edit = s.edit := rfl
@[simp] theorem State.raise_proved (s : State) (l : Link) (n : Notice) : (s.raise l n).proved = s.proved := rfl
@[simp] theorem State.raise_vats (s : State) (l : Link) (n : Notice) : (s.raise l n).vats = s.vats := rfl
@[simp] theorem State.raise_slotMap (s : State) (l : Link) (n : Notice) : (s.raise l n).slotMap = s.slotMap := rfl
@[simp] theorem State.raise_settings (s : State) (l : Link) (n : Notice) : (s.raise l n).settings = s.settings := rfl
@[simp] theorem State.raise_frozen (s : State) (l : Link) (n : Notice) : (s.raise l n).frozen = s.frozen := rfl
@[simp] theorem State.raise_restartAccepted (s : State) (l : Link) (n : Notice) : (s.raise l n).restartAccepted = s.restartAccepted := rfl
@[simp] theorem State.raise_banks (s : State) (l : Link) (n : Notice) : (s.raise l n).banks = s.banks := rfl
@[simp] theorem State.raise_urgent (s : State) (l : Link) (n : Notice) : (s.raise l n).urgent = s.urgent := rfl
@[simp] theorem State.raise_openList (s : State) (l : Link) (n : Notice) : (s.raise l n).openList = s.openList := rfl
@[simp] theorem State.raise_carriages (s : State) (l : Link) (n : Notice) : (s.raise l n).carriages = s.carriages := rfl
@[simp] theorem State.raise_tagCounter (s : State) (l : Link) (n : Notice) : (s.raise l n).tagCounter = s.tagCounter := rfl
@[simp] theorem State.raise_lateTags (s : State) (l : Link) (n : Notice) : (s.raise l n).lateTags = s.lateTags := rfl
@[simp] theorem State.raise_routinePause (s : State) (l : Link) (n : Notice) : (s.raise l n).routinePause = s.routinePause := rfl
@[simp] theorem State.raise_lastGranted (s : State) (l : Link) (n : Notice) : (s.raise l n).lastGranted = s.lastGranted := rfl
@[simp] theorem State.raise_line (s : State) (l : Link) (n : Notice) : (s.raise l n).line = s.line := rfl
@[simp] theorem State.raise_lateList (s : State) (l : Link) (n : Notice) : (s.raise l n).lateList = s.lateList := rfl
@[simp] theorem State.raise_routine (s : State) (l : Link) (n : Notice) : (s.raise l n).routine = s.routine := rfl
@[simp] theorem State.raise_lots (s : State) (l : Link) (n : Notice) : (s.raise l n).lots = s.lots := rfl
@[simp] theorem State.raise_window (s : State) (l : Link) (n : Notice) : (s.raise l n).window = s.window := rfl
@[simp] theorem State.raise_drawn (s : State) (l : Link) (n : Notice) : (s.raise l n).drawn = s.drawn := rfl
@[simp] theorem State.raise_pending (s : State) (l : Link) (n : Notice) : (s.raise l n).pending = s.pending := rfl
@[simp] theorem State.raise_vat (s : State) (l : Link) (n : Notice) (w : Vat) :
    (s.raise l n).vat w = s.vat w := rfl
@[simp] theorem State.raise_bank (s : State) (l : Link) (n : Notice) (w : Bank) :
    (s.raise l n).bank w = s.bank w := rfl
@[simp] theorem State.raise_carriage (s : State) (l : Link) (n : Notice) (w : Carriage) :
    (s.raise l n).carriage w = s.carriage w := rfl

/-! ### raiseBoth -/

@[simp] theorem State.raiseBoth_clock (s : State) (l l₂ : Link) (n : Notice) : (s.raiseBoth l l₂ n).clock = s.clock := rfl
@[simp] theorem State.raiseBoth_inReset (s : State) (l l₂ : Link) (n : Notice) : (s.raiseBoth l l₂ n).inReset = s.inReset := rfl
@[simp] theorem State.raiseBoth_straps (s : State) (l l₂ : Link) (n : Notice) : (s.raiseBoth l l₂ n).straps = s.straps := rfl
@[simp] theorem State.raiseBoth_edit (s : State) (l l₂ : Link) (n : Notice) : (s.raiseBoth l l₂ n).edit = s.edit := rfl
@[simp] theorem State.raiseBoth_proved (s : State) (l l₂ : Link) (n : Notice) : (s.raiseBoth l l₂ n).proved = s.proved := rfl
@[simp] theorem State.raiseBoth_vats (s : State) (l l₂ : Link) (n : Notice) : (s.raiseBoth l l₂ n).vats = s.vats := rfl
@[simp] theorem State.raiseBoth_slotMap (s : State) (l l₂ : Link) (n : Notice) : (s.raiseBoth l l₂ n).slotMap = s.slotMap := rfl
@[simp] theorem State.raiseBoth_settings (s : State) (l l₂ : Link) (n : Notice) : (s.raiseBoth l l₂ n).settings = s.settings := rfl
@[simp] theorem State.raiseBoth_frozen (s : State) (l l₂ : Link) (n : Notice) : (s.raiseBoth l l₂ n).frozen = s.frozen := rfl
@[simp] theorem State.raiseBoth_restartAccepted (s : State) (l l₂ : Link) (n : Notice) : (s.raiseBoth l l₂ n).restartAccepted = s.restartAccepted := rfl
@[simp] theorem State.raiseBoth_banks (s : State) (l l₂ : Link) (n : Notice) : (s.raiseBoth l l₂ n).banks = s.banks := rfl
@[simp] theorem State.raiseBoth_urgent (s : State) (l l₂ : Link) (n : Notice) : (s.raiseBoth l l₂ n).urgent = s.urgent := rfl
@[simp] theorem State.raiseBoth_openList (s : State) (l l₂ : Link) (n : Notice) : (s.raiseBoth l l₂ n).openList = s.openList := rfl
@[simp] theorem State.raiseBoth_carriages (s : State) (l l₂ : Link) (n : Notice) : (s.raiseBoth l l₂ n).carriages = s.carriages := rfl
@[simp] theorem State.raiseBoth_tagCounter (s : State) (l l₂ : Link) (n : Notice) : (s.raiseBoth l l₂ n).tagCounter = s.tagCounter := rfl
@[simp] theorem State.raiseBoth_lateTags (s : State) (l l₂ : Link) (n : Notice) : (s.raiseBoth l l₂ n).lateTags = s.lateTags := rfl
@[simp] theorem State.raiseBoth_routinePause (s : State) (l l₂ : Link) (n : Notice) : (s.raiseBoth l l₂ n).routinePause = s.routinePause := rfl
@[simp] theorem State.raiseBoth_lastGranted (s : State) (l l₂ : Link) (n : Notice) : (s.raiseBoth l l₂ n).lastGranted = s.lastGranted := rfl
@[simp] theorem State.raiseBoth_line (s : State) (l l₂ : Link) (n : Notice) : (s.raiseBoth l l₂ n).line = s.line := rfl
@[simp] theorem State.raiseBoth_lateList (s : State) (l l₂ : Link) (n : Notice) : (s.raiseBoth l l₂ n).lateList = s.lateList := rfl
@[simp] theorem State.raiseBoth_routine (s : State) (l l₂ : Link) (n : Notice) : (s.raiseBoth l l₂ n).routine = s.routine := rfl
@[simp] theorem State.raiseBoth_lots (s : State) (l l₂ : Link) (n : Notice) : (s.raiseBoth l l₂ n).lots = s.lots := rfl
@[simp] theorem State.raiseBoth_window (s : State) (l l₂ : Link) (n : Notice) : (s.raiseBoth l l₂ n).window = s.window := rfl
@[simp] theorem State.raiseBoth_drawn (s : State) (l l₂ : Link) (n : Notice) : (s.raiseBoth l l₂ n).drawn = s.drawn := rfl
@[simp] theorem State.raiseBoth_pending (s : State) (l l₂ : Link) (n : Notice) : (s.raiseBoth l l₂ n).pending = s.pending := rfl
@[simp] theorem State.raiseBoth_vat (s : State) (l l₂ : Link) (n : Notice) (w : Vat) :
    (s.raiseBoth l l₂ n).vat w = s.vat w := rfl
@[simp] theorem State.raiseBoth_bank (s : State) (l l₂ : Link) (n : Notice) (w : Bank) :
    (s.raiseBoth l l₂ n).bank w = s.bank w := rfl
@[simp] theorem State.raiseBoth_carriage (s : State) (l l₂ : Link) (n : Notice) (w : Carriage) :
    (s.raiseBoth l l₂ n).carriage w = s.carriage w := rfl

/-! ### A record read after it was written -/

@[simp] theorem State.setVat_vat_same (s : State) (v : Vat) (r : VatRecord) : (s.setVat v r).vat v = r := by
  simp [State.setVat, State.vat]

@[simp] theorem State.setVat_vat_ne (s : State) {v w : Vat} (r : VatRecord) (h : w ≠ v) :
    (s.setVat v r).vat w = s.vat w := by
  have h' : (v : Nat) ≠ (w : Nat) := fun e => h (Fin.ext e.symm)
  simp [State.setVat, State.vat, h']

@[simp] theorem State.modVat_vat_same (s : State) (v : Vat) (f : VatRecord → VatRecord) :
    (s.modVat v f).vat v = f (s.vat v) := by simp [State.modVat]

@[simp] theorem State.modVat_vat_ne (s : State) {v w : Vat} (f : VatRecord → VatRecord) (h : w ≠ v) :
    (s.modVat v f).vat w = s.vat w := by simp [State.modVat, h]

@[simp] theorem State.setBank_bank_same (s : State) (b : Bank) (k : BankRecord) : (s.setBank b k).bank b = k := by
  simp [State.setBank, State.bank]

@[simp] theorem State.setBank_bank_ne (s : State) {b w : Bank} (k : BankRecord) (h : w ≠ b) :
    (s.setBank b k).bank w = s.bank w := by
  have h' : (b : Nat) ≠ (w : Nat) := fun e => h (Fin.ext e.symm)
  simp [State.setBank, State.bank, h']

@[simp] theorem State.modBank_bank_same (s : State) (b : Bank) (f : BankRecord → BankRecord) :
    (s.modBank b f).bank b = f (s.bank b) := by simp [State.modBank]

@[simp] theorem State.modBank_bank_ne (s : State) {b w : Bank} (f : BankRecord → BankRecord) (h : w ≠ b) :
    (s.modBank b f).bank w = s.bank w := by simp [State.modBank, h]

@[simp] theorem State.setCarriage_carriage_same (s : State) (c : Carriage) (k : CarriageRecord) :
    (s.setCarriage c k).carriage c = k := by simp [State.setCarriage, State.carriage]

@[simp] theorem State.setCarriage_carriage_ne (s : State) {c w : Carriage} (k : CarriageRecord) (h : w ≠ c) :
    (s.setCarriage c k).carriage w = s.carriage w := by
  have h' : (c : Nat) ≠ (w : Nat) := fun e => h (Fin.ext e.symm)
  simp [State.setCarriage, State.carriage, h']

@[simp] theorem State.modCarriage_carriage_same (s : State) (c : Carriage) (f : CarriageRecord → CarriageRecord) :
    (s.modCarriage c f).carriage c = f (s.carriage c) := by simp [State.modCarriage]

@[simp] theorem State.modCarriage_carriage_ne (s : State) {c w : Carriage} (f : CarriageRecord → CarriageRecord)
    (h : w ≠ c) : (s.modCarriage c f).carriage w = s.carriage w := by simp [State.modCarriage, h]

@[simp] theorem State.setLink_link_same (s : State) (l : Link) (u : LinkUnit) : (s.setLink l u).link l = u := by
  cases l <;> rfl

@[simp] theorem State.setLink_link_ne (s : State) {l w : Link} (u : LinkUnit) (h : w ≠ l) :
    (s.setLink l u).link w = s.link w := by
  cases l <;> cases w <;> first | rfl | exact absurd rfl h

@[simp] theorem State.modLink_link_same (s : State) (l : Link) (f : LinkUnit → LinkUnit) :
    (s.modLink l f).link l = f (s.link l) := by simp [State.modLink]

@[simp] theorem State.modLink_link_ne (s : State) {l w : Link} (f : LinkUnit → LinkUnit) (h : w ≠ l) :
    (s.modLink l f).link w = s.link w := by simp [State.modLink, h]

@[simp] theorem State.raise_link_same (s : State) (l : Link) (n : Notice) :
    (s.raise l n).link l = (s.link l).raise n := by simp [State.raise]

@[simp] theorem State.raise_link_ne (s : State) {l w : Link} (n : Notice) (h : w ≠ l) :
    (s.raise l n).link w = s.link w := by simp [State.raise, h]

/-! ### Writing twice, and writing back what was read -/

@[simp] theorem State.setVat_setVat (s : State) (v : Vat) (r r' : VatRecord) :
    (s.setVat v r).setVat v r' = s.setVat v r' := by simp [State.setVat]

@[simp] theorem State.setBank_setBank (s : State) (b : Bank) (k k' : BankRecord) :
    (s.setBank b k).setBank b k' = s.setBank b k' := by simp [State.setBank]

@[simp] theorem State.setCarriage_setCarriage (s : State) (c : Carriage) (k k' : CarriageRecord) :
    (s.setCarriage c k).setCarriage c k' = s.setCarriage c k' := by simp [State.setCarriage]

@[simp] theorem State.setLink_setLink (s : State) (l : Link) (u u' : LinkUnit) :
    (s.setLink l u).setLink l u' = s.setLink l u' := by cases l <;> rfl

@[simp] theorem State.setVat_self (s : State) (v : Vat) : s.setVat v (s.vat v) = s := by
  simp [State.setVat, State.vat]

@[simp] theorem State.setBank_self (s : State) (b : Bank) : s.setBank b (s.bank b) = s := by
  simp [State.setBank, State.bank]

@[simp] theorem State.setCarriage_self (s : State) (c : Carriage) : s.setCarriage c (s.carriage c) = s := by
  simp [State.setCarriage, State.carriage]

@[simp] theorem State.setLink_self (s : State) (l : Link) : s.setLink l (s.link l) = s := by cases l <;> rfl

theorem State.modVat_modVat (s : State) (v : Vat) (f g : VatRecord → VatRecord) :
    (s.modVat v f).modVat v g = s.modVat v fun r => g (f r) := by simp [State.modVat]

theorem State.modBank_modBank (s : State) (b : Bank) (f g : BankRecord → BankRecord) :
    (s.modBank b f).modBank b g = s.modBank b fun k => g (f k) := by simp [State.modBank]

theorem State.modCarriage_modCarriage (s : State) (c : Carriage) (f g : CarriageRecord → CarriageRecord) :
    (s.modCarriage c f).modCarriage c g = s.modCarriage c fun k => g (f k) := by simp [State.modCarriage]

theorem State.modLink_modLink (s : State) (l : Link) (f g : LinkUnit → LinkUnit) :
    (s.modLink l f).modLink l g = s.modLink l fun u => g (f u) := by simp [State.modLink]

end Sys2Proof.Machine
end

