-- ==== Sys2Proof/Laws/Requests.lean ====
section
/-! SUPPORT. What the taking of a request does, in its three cases, and what the field checks do when a field is in its
range. -/

namespace Sys2Proof.Machine

/-- A request that passes its first checks goes to its owner. -/
theorem State.takeRequest_of_asks {s : State} {l : Link} {edit : Bool} {r : Request} {f : Frame}
    (own : Asking → State → State) (h : Asks s l edit r f) :
    State.takeRequest r l edit own s = own ⟨l, f⟩ (s.taken l edit) := by
  obtain ⟨h₁, h₂, h₃⟩ := h
  simp [State.takeRequest, h₁, h₂, h₃]

/-- A request that fails one of its first checks is refused with that check's result. -/
theorem State.takeRequest_of_refused {s : State} {l : Link} {edit : Bool} {r : Request} {f : Frame} {x : Result}
    (own : Asking → State → State) (h₁ : s.takable l = some f) (h₂ : f.request = r)
    (h₃ : firstChecks r ⟨l, f⟩ edit = some x) :
    State.takeRequest r l edit own s = s.answered l edit f x [] := by
  simp [State.takeRequest, h₁, h₂, h₃, State.answered, State.refuse]

/-- When no frame of the row can be taken, nothing happens. -/
theorem State.takeRequest_of_none {s : State} {l : Link} {edit : Bool} {r : Request} (own : Asking → State → State)
    (h : ∀ f, s.takable l = some f → f.request ≠ r) : State.takeRequest r l edit own s = s := by
  unfold State.takeRequest
  split
  · rfl
  · rename_i f hf
    simp [h f hf]

theorem State.inRange_some {α : Type} (s : State) (a : Asking) (x : α) (rest : α → State) :
    s.inRange a (some x) rest = rest x := rfl

theorem State.inRange_none {α : Type} (s : State) (a : Asking) (rest : α → State) :
    s.inRange a none rest = s.refuse a .range := rfl

theorem State.resolved_some {s : State} {slot : Slot} {v : Vat} (a : Asking) (rest : Vat → State)
    (h : s.slotMap[slot] = some v) : s.resolved a slot rest = rest v := by simp only [State.resolved, h]

theorem State.resolved_none {s : State} {slot : Slot} (a : Asking) (rest : Vat → State)
    (h : s.slotMap[slot] = none) : s.resolved a slot rest = s.refuse a .unmapped := by simp only [State.resolved, h]

/-! ### What the taking and the reply leave as it was -/

@[simp] theorem State.taken_vat (s : State) (l : Link) (e : Bool) (v : Vat) : (s.taken l e).vat v = s.vat v := rfl
@[simp] theorem State.taken_bank (s : State) (l : Link) (e : Bool) (b : Bank) : (s.taken l e).bank b = s.bank b := rfl
@[simp] theorem State.taken_carriage (s : State) (l : Link) (e : Bool) (c : Carriage) :
    (s.taken l e).carriage c = s.carriage c := rfl
@[simp] theorem State.taken_vats (s : State) (l : Link) (e : Bool) : (s.taken l e).vats = s.vats := rfl
@[simp] theorem State.taken_banks (s : State) (l : Link) (e : Bool) : (s.taken l e).banks = s.banks := rfl
@[simp] theorem State.taken_carriages (s : State) (l : Link) (e : Bool) : (s.taken l e).carriages = s.carriages := rfl
@[simp] theorem State.taken_clock (s : State) (l : Link) (e : Bool) : (s.taken l e).clock = s.clock := rfl
@[simp] theorem State.taken_settings (s : State) (l : Link) (e : Bool) : (s.taken l e).settings = s.settings := rfl
@[simp] theorem State.taken_slotMap (s : State) (l : Link) (e : Bool) : (s.taken l e).slotMap = s.slotMap := rfl
@[simp] theorem State.taken_proved (s : State) (l : Link) (e : Bool) : (s.taken l e).proved = s.proved := rfl
@[simp] theorem State.taken_frozen (s : State) (l : Link) (e : Bool) : (s.taken l e).frozen = s.frozen := rfl
@[simp] theorem State.taken_line (s : State) (l : Link) (e : Bool) : (s.taken l e).line = s.line := rfl
@[simp] theorem State.taken_lots (s : State) (l : Link) (e : Bool) : (s.taken l e).lots = s.lots := rfl
@[simp] theorem State.taken_window (s : State) (l : Link) (e : Bool) : (s.taken l e).window = s.window := rfl
@[simp] theorem State.taken_urgent (s : State) (l : Link) (e : Bool) : (s.taken l e).urgent = s.urgent := rfl
@[simp] theorem State.taken_openList (s : State) (l : Link) (e : Bool) : (s.taken l e).openList = s.openList := rfl
@[simp] theorem State.taken_lateList (s : State) (l : Link) (e : Bool) : (s.taken l e).lateList = s.lateList := rfl
@[simp] theorem State.taken_routine (s : State) (l : Link) (e : Bool) : (s.taken l e).routine = s.routine := rfl
@[simp] theorem State.taken_lateTags (s : State) (l : Link) (e : Bool) : (s.taken l e).lateTags = s.lateTags := rfl
@[simp] theorem State.taken_tagCounter (s : State) (l : Link) (e : Bool) : (s.taken l e).tagCounter = s.tagCounter := rfl
@[simp] theorem State.taken_routinePause (s : State) (l : Link) (e : Bool) :
    (s.taken l e).routinePause = s.routinePause := rfl

/-- The reply of a refused request is the whole of its effect. -/
theorem State.refuse_taken (s : State) (l : Link) (e : Bool) (f : Frame) (x : Result) :
    (s.taken l e).refuse ⟨l, f⟩ x = s.answered l e f x [] := rfl

/-- The reply of a request done without data. -/
theorem State.done_taken (s : State) (l : Link) (e : Bool) (f : Frame) :
    (s.taken l e).done ⟨l, f⟩ = s.answered l e f .done [] := rfl

theorem State.answer_taken (s : State) (l : Link) (e : Bool) (f : Frame) (x : Result) (d : List Field) :
    (s.taken l e).answer ⟨l, f⟩ x d = s.answered l e f x d := rfl

/-! ### What an answered request leaves as it was -/

section Answered

variable (s : State) (l : Link) (e : Bool) (f : Frame) (x : Result) (d : List Field)

@[simp] theorem State.answered_vat (v : Vat) : (s.answered l e f x d).vat v = s.vat v := rfl
@[simp] theorem State.answered_bank (b : Bank) : (s.answered l e f x d).bank b = s.bank b := rfl
@[simp] theorem State.answered_carriage (c : Carriage) : (s.answered l e f x d).carriage c = s.carriage c := rfl
@[simp] theorem State.answered_vats : (s.answered l e f x d).vats = s.vats := rfl
@[simp] theorem State.answered_banks : (s.answered l e f x d).banks = s.banks := rfl
@[simp] theorem State.answered_carriages : (s.answered l e f x d).carriages = s.carriages := rfl
@[simp] theorem State.answered_clock : (s.answered l e f x d).clock = s.clock := rfl
@[simp] theorem State.answered_inReset : (s.answered l e f x d).inReset = s.inReset := rfl
@[simp] theorem State.answered_straps : (s.answered l e f x d).straps = s.straps := rfl
@[simp] theorem State.answered_settings : (s.answered l e f x d).settings = s.settings := rfl
@[simp] theorem State.answered_slotMap : (s.answered l e f x d).slotMap = s.slotMap := rfl
@[simp] theorem State.answered_proved : (s.answered l e f x d).proved = s.proved := rfl
@[simp] theorem State.answered_frozen : (s.answered l e f x d).frozen = s.frozen := rfl
@[simp] theorem State.answered_restartAccepted : (s.answered l e f x d).restartAccepted = s.restartAccepted := rfl
@[simp] theorem State.answered_line : (s.answered l e f x d).line = s.line := rfl
@[simp] theorem State.answered_lots : (s.answered l e f x d).lots = s.lots := rfl
@[simp] theorem State.answered_window : (s.answered l e f x d).window = s.window := rfl
@[simp] theorem State.answered_urgent : (s.answered l e f x d).urgent = s.urgent := rfl
@[simp] theorem State.answered_openList : (s.answered l e f x d).openList = s.openList := rfl
@[simp] theorem State.answered_lateList : (s.answered l e f x d).lateList = s.lateList := rfl
@[simp] theorem State.answered_routine : (s.answered l e f x d).routine = s.routine := rfl
@[simp] theorem State.answered_lateTags : (s.answered l e f x d).lateTags = s.lateTags := rfl
@[simp] theorem State.answered_tagCounter : (s.answered l e f x d).tagCounter = s.tagCounter := rfl
@[simp] theorem State.answered_routinePause : (s.answered l e f x d).routinePause = s.routinePause := rfl
@[simp] theorem State.answered_lastGranted : (s.answered l e f x d).lastGranted = s.lastGranted := rfl
@[simp] theorem State.answered_drawn : (s.answered l e f x d).drawn = s.drawn := rfl
@[simp] theorem State.answered_pending : (s.answered l e f x d).pending = s.pending := rfl
@[simp] theorem State.answered_edit : (s.answered l e f x d).edit = e := rfl
@[simp] theorem State.answered_standing (t : Nat) : (s.answered l e f x d).standing? t = s.standing? t := rfl
@[simp] theorem State.answered_findLot (n : Nat) : (s.answered l e f x d).findLot n = s.findLot n := rfl
@[simp] theorem State.answered_bankOf (v : Vat) : (s.answered l e f x d).bankOf v = s.bankOf v := rfl
@[simp] theorem State.taken_standing (t : Nat) : (s.taken l e).standing? t = s.standing? t := rfl
@[simp] theorem State.taken_findLot (n : Nat) : (s.taken l e).findLot n = s.findLot n := rfl
@[simp] theorem State.taken_bankOf (v : Vat) : (s.taken l e).bankOf v = s.bankOf v := rfl

/-- The link of a request that is answered: the frame has left its buffer, and the reply is at its queue's tail. -/
theorem State.answered_link_self : (s.answered l e f x d).link l =
    { s.link l with buffer := (s.link l).buffer.tail,
                    queue := (s.link l).queue ++ [.reply (f.kind ||| 0x80) f.tag x d] } := by cases l <;> rfl

/-- The other links are as they were. -/
theorem State.answered_link_other {l' : Link} (h : l' ≠ l) : (s.answered l e f x d).link l' = s.link l' := by
  cases l <;> cases l' <;> first | rfl | exact absurd rfl h

/-- A station is PRESENT after an answered request exactly when it was. -/
@[simp] theorem State.answered_present (l' : Link) : (s.answered l e f x d).present l' = s.present l' := by
  cases l <;> cases l' <;> rfl

end Answered

end Sys2Proof.Machine
end

