-- ==== Sys2Proof/Laws/Frames.lean ====
section
/-! SUPPORT. What the shared operations can change: for each, once, that it is work of its own block, and what such work
leaves as it was. A later proof cites these and does not unfold the operations. -/

namespace Sys2Proof.Machine

/-! ### Links that gain notices -/

/-- A link unit that has gained notices at its queue's tail, within its room, and may have lost some to a full queue. -/
def LinkUnit.Gains (u u' : LinkUnit) : Prop :=
  ∃ (ns : List Notice) (lost : Bool),
    u' = { u with queue := u.queue ++ ns.map Message.notice, noticeLoss := u.noticeLoss || lost } ∧
    (ns = [] ∨ u.queue.length + ns.length ≤ Config.transmitRoom)

theorem LinkUnit.Gains.refl (u : LinkUnit) : u.Gains u := ⟨[], false, by simp, .inl rfl⟩

theorem LinkUnit.Gains.trans {u v w : LinkUnit} (h : u.Gains v) (h' : v.Gains w) : u.Gains w := by
  obtain ⟨ns, lost, rfl, hr⟩ := h
  obtain ⟨ms, lost', rfl, hr'⟩ := h'
  refine ⟨ns ++ ms, lost || lost', by simp [Bool.or_assoc], ?_⟩
  rcases hr' with rfl | hr'
  · simpa using hr
  · refine .inr ?_
    simp only [List.length_append, List.length_map] at hr' ⊢
    omega

theorem LinkUnit.Gains.raise (u : LinkUnit) (n : Notice) : u.Gains (u.raise n) := by
  unfold LinkUnit.raise
  split
  · rename_i h
    refine ⟨[n], false, by simp, .inr ?_⟩
    simp only [LinkUnit.hasRoom, decide_eq_true_eq] at h
    simp only [List.length_cons, List.length_nil]
    omega
  · exact ⟨[], true, by simp, .inl rfl⟩

/-- A queue that was within its room is so after a gain. -/
theorem LinkUnit.Gains.room {u u' : LinkUnit} (h : u.Gains u') (hu : u.queue.length ≤ Config.transmitRoom) :
    u'.queue.length ≤ Config.transmitRoom := by
  obtain ⟨ns, lost, rfl, hr⟩ := h
  rcases hr with rfl | hr
  · simpa using hu
  · simpa using hr

/-- A gain leaves the buffer, the assembly, the presence, the frame being sent and the other marks. -/
theorem LinkUnit.Gains.keeps {u u' : LinkUnit} (h : u.Gains u') :
    u'.assembly = u.assembly ∧ u'.buffer = u.buffer ∧ u'.sending = u.sending ∧ u'.presence = u.presence ∧
      u'.overrun = u.overrun ∧ u'.frameError = u.frameError ∧ u'.restarted = u.restarted ∧ u'.inBreak = u.inBreak := by
  obtain ⟨ns, lost, rfl, -⟩ := h
  exact ⟨rfl, rfl, rfl, rfl, rfl, rfl, rfl, rfl⟩

/-- Every link of `t` has gained on that link of `s`. -/
def LinksGain (s t : State) : Prop := ∀ l, (s.link l).Gains (t.link l)

theorem LinksGain.refl (s : State) : LinksGain s s := fun _ => .refl _

theorem LinksGain.trans {s t u : State} (h : LinksGain s t) (h' : LinksGain t u) : LinksGain s u :=
  fun l => (h l).trans (h' l)

theorem LinksGain.raise (s : State) (l : Link) (n : Notice) : LinksGain s (s.raise l n) := by
  intro l'
  by_cases h : l' = l
  · subst h
    simpa [State.raise] using LinkUnit.Gains.raise (s.link l') n
  · simpa [State.raise, h] using LinkUnit.Gains.refl (s.link l')

/-- A station is PRESENT after a gain exactly when it was. -/
theorem LinksGain.present {s t : State} (h : LinksGain s t) (l : Link) : t.present l = s.present l := by
  simp [State.present, (h l).keeps.2.2.2.1]

/-! ### Vat records that keep their slot and service -/

/-- Every vat record of `t` has the slot and the service it has in `s`: what all but a remap and SERVICE leave. -/
def VatsStay (s t : State) : Prop := ∀ v, (t.vat v).slot = (s.vat v).slot ∧ (t.vat v).service = (s.vat v).service

theorem VatsStay.refl (s : State) : VatsStay s s := fun _ => ⟨rfl, rfl⟩

theorem VatsStay.trans {s t u : State} (h : VatsStay s t) (h' : VatsStay t u) : VatsStay s u :=
  fun v => ⟨(h' v).1.trans (h v).1, (h' v).2.trans (h v).2⟩

theorem VatsStay.modVat (s : State) (v : Vat) (f : VatRecord → VatRecord)
    (hf : ∀ r : VatRecord, (f r).slot = r.slot ∧ (f r).service = r.service) : VatsStay s (s.modVat v f) := by
  intro w
  by_cases h : w = v
  · subst h
    simpa [State.modVat] using hf (s.vat w)
  · simp [State.modVat, h]

/-! ### Work of a bank -/

/-- `t` is `s` after work of bank `b`: its record, vat records but for slot and service, and notices gained. -/
structure BankWork (b : Bank) (s t : State) : Prop where
  frame : t = { s with vats := t.vats, banks := t.banks, links := t.links }
  others : ∀ b', b' ≠ b → t.bank b' = s.bank b'
  vats : VatsStay s t
  links : LinksGain s t

theorem BankWork.refl (b : Bank) (s : State) : BankWork b s s := ⟨rfl, fun _ _ => rfl, .refl s, .refl s⟩

theorem BankWork.trans {b : Bank} {s t u : State} (h : BankWork b s t) (h' : BankWork b t u) : BankWork b s u :=
  ⟨by rw [h'.frame, h.frame], fun b' hb => (h'.others b' hb).trans (h.others b' hb), h.vats.trans h'.vats,
    h.links.trans h'.links⟩

theorem BankWork.modBank (b : Bank) (s : State) (f : BankRecord → BankRecord) : BankWork b s (s.modBank b f) :=
  ⟨rfl, fun b' hb => by simp [State.modBank, hb], .refl s, .refl s⟩

theorem BankWork.modVat (b : Bank) (s : State) (v : Vat) (f : VatRecord → VatRecord)
    (hf : ∀ r : VatRecord, (f r).slot = r.slot ∧ (f r).service = r.service) : BankWork b s (s.modVat v f) :=
  ⟨rfl, fun _ _ => rfl, .modVat s v f hf, fun _ => .refl _⟩

theorem BankWork.raise (b : Bank) (s : State) (l : Link) (n : Notice) : BankWork b s (s.raise l n) :=
  ⟨rfl, fun _ _ => rfl, fun _ => ⟨rfl, rfl⟩, .raise s l n⟩

theorem BankWork.raiseBoth (b : Bank) (s : State) (l l' : Link) (n : Notice) : BankWork b s (s.raiseBoth l l' n) :=
  (BankWork.raise b s l n).trans (.raise b _ l' n)

theorem BankWork.clearVat (b : Bank) (s : State) (v : Vat) : BankWork b s (s.clearVat v) :=
  .modVat b s v _ (by intro _; exact ⟨rfl, rfl⟩)

theorem BankWork.endFill (b : Bank) (s : State) (v : Vat) : BankWork b s (s.endFill v) := by
  unfold State.endFill
  split
  · exact .modVat b s v _ (by intro _; exact ⟨rfl, rfl⟩)
  · exact .clearVat b s v

theorem BankWork.reportTake (b : Bank) (s : State) (e : Transfer) : BankWork b s (s.reportTake b e) := by
  unfold State.reportTake
  split
  · exact .refl b s
  · exact (BankWork.modVat b s _ _ (by intro r; split <;> exact ⟨rfl, rfl⟩)).trans (.raise b _ _ _)

theorem BankWork.parkLook (b : Bank) (s : State) : BankWork b s (s.parkLook b) := by
  unfold State.parkLook
  split <;> exact .modBank b s _

theorem BankWork.takeTransfer (b : Bank) (s : State) (e : Transfer) (rest : List Transfer) :
    BankWork b s (s.takeTransfer b e rest) := (BankWork.modBank b s _).trans (.reportTake b _ e)

theorem BankWork.hitTransfer (b : Bank) (s : State) (e : Transfer) (rest : List Transfer) :
    BankWork b s (s.hitTransfer b e rest) := (BankWork.modBank b s _).trans (.reportTake b _ e)

theorem BankWork.beginClose (b : Bank) (s : State) (cause : CloseCause) : BankWork b s (s.beginClose b cause) :=
  .modBank b s _

theorem BankWork.bankLook (b : Bank) (s : State) : BankWork b s (s.bankLook b) := by
  unfold State.bankLook
  split
  · split
    · exact .refl b s
    · split
      · exact .takeTransfer b s _ _
      · split
        · exact .hitTransfer b s _ _
        · exact .beginClose b s _
  · exact .refl b s

theorem BankWork.takeRinse (b : Bank) (s : State) : BankWork b s (s.takeRinse b) := .modBank b s _

theorem BankWork.enterReady (b : Bank) (s : State) : BankWork b s (s.enterReady b) := by
  unfold State.enterReady
  dsimp only
  split
  · exact ((BankWork.modBank b s _).trans (.takeRinse b _)).trans (.parkLook b _)
  · exact ((BankWork.modBank b s _).trans (.bankLook b _)).trans (.parkLook b _)

theorem BankWork.afterTransfer (b : Bank) (s : State) : BankWork b s (s.afterTransfer b) := by
  unfold State.afterTransfer
  split
  · exact .beginClose b s _
  · exact .bankLook b s

theorem BankWork.actOnRinse (b : Bank) (s : State) : BankWork b s (s.actOnRinse b) := by
  unfold State.actOnRinse
  split
  · exact .takeRinse b s
  · exact .beginClose b s _
  · exact .refl b s

theorem BankWork.endDrain (b : Bank) (s : State) : BankWork b s (s.endDrain b) := by
  unfold State.endDrain
  split
  · exact (BankWork.modBank b s _).trans (.enterReady b _)
  · exact (BankWork.modBank b s _).trans (.takeRinse b _)
  · exact (BankWork.modBank b s _).trans (.takeRinse b _)
  · exact .modBank b s _

theorem BankWork.beginDrain (b : Bank) (s : State) : BankWork b s (s.beginDrain b) := by
  unfold State.beginDrain
  split
  · exact (BankWork.modBank b s _).trans (.endDrain b _)
  · exact .modBank b s _

theorem BankWork.loseTransfer (b : Bank) (s : State) : BankWork b s (s.loseTransfer b) := by
  unfold State.loseTransfer
  split
  · exact .refl b s
  · split
    · exact .endFill b s _
    · exact .modBank b s _

theorem BankWork.faultBank (b : Bank) (s : State) (cause : BankFaultCause) : BankWork b s (s.faultBank b cause) :=
  ((BankWork.loseTransfer b s).trans (.modBank b _ _)).trans (.raiseBoth b _ _ _ _)

theorem BankWork.enterPriming (b : Bank) (s : State) : BankWork b s (s.enterPriming b) := .modBank b s _

theorem BankWork.parkBank (b : Bank) (s : State) : BankWork b s (s.parkBank b) := by
  unfold State.parkBank
  exact .modBank b s _

theorem BankWork.joinTransfer (b : Bank) (s : State) (e : Transfer) : BankWork b s (s.joinTransfer b e) := by
  unfold State.joinTransfer
  dsimp only
  split
  · exact (BankWork.modBank b s _).trans (.enterPriming b _)
  · exact ((BankWork.modBank b s _).trans (.bankLook b _)).trans (.parkLook b _)

theorem BankWork.expirePath (b : Bank) (s : State) : BankWork b s (s.expirePath b) := by
  unfold State.expirePath
  split
  · refine (BankWork.trans ?_ (.modBank b _ _)).trans (.beginClose b _ _)
    unfold State.raiseSuspended
    split
    · split
      · exact .raise b s _ _
      · exact .refl b s
    · exact .refl b s
  · exact .modBank b s _
  · exact .refl b s

/-- A WASH entry joins the list of the bank whose zone holds the vat. -/
theorem BankWork.queueWash (s : State) (v : Vat) : BankWork (s.bankOf v) s (s.queueWash v) :=
  (BankWork.modVat _ s v _ (by intro _; exact ⟨rfl, rfl⟩)).trans (.joinTransfer _ _ _)

/-! ### The meanings of a bank's inputs and timers -/

theorem BankWork.openPath (b : Bank) (s : State) : BankWork b s (s.openPath b) := by
  unfold State.openPath
  split
  · split
    · exact ((BankWork.modBank b s _).trans (.endFill b _ _)).trans (.afterTransfer b _)
    · exact .modBank b s _
  · exact .modBank b s _

theorem BankWork.applyProvedRise (b : Bank) (s : State) : BankWork b s (s.applyProvedRise b) := by
  unfold State.applyProvedRise
  split
  · exact .openPath b s
  · split
    · exact .faultBank b s _
    · exact .refl b s
  · split
    · exact .faultBank b s _
    · exact .refl b s
  · exact .faultBank b s _
  · exact .faultBank b s _
  · exact .faultBank b s _
  · exact .faultBank b s _
  · exact .refl b s
  · exact .refl b s

theorem BankWork.applyProvedFall (b : Bank) (s : State) : BankWork b s (s.applyProvedFall b) := by
  unfold State.applyProvedFall
  split
  · exact .faultBank b s _
  · split
    · exact .beginDrain b s
    · exact .refl b s
  · split
    · exact .modBank b s _
    · exact .refl b s
  · exact .refl b s

theorem BankWork.reportComplete (b : Bank) (s : State) (e : Transfer) : BankWork b s (s.reportComplete e) := by
  unfold State.reportComplete
  dsimp only
  split
  · exact (BankWork.modVat b s _ _ (by intro _; exact ⟨rfl, rfl⟩)).trans (.raise b _ _ _)
  · exact (BankWork.clearVat b s _).trans (.raise b _ _ _)

theorem BankWork.meter (b : Bank) (s : State) (c : Current) : BankWork b s (s.meter b c) := by
  unfold State.meter
  dsimp only
  refine BankWork.trans (t := s.addFilled c s.settings.litresPerPulse) ?_ ?_
  · unfold State.addFilled
    split
    · exact .modVat b s _ _ (by intro _; exact ⟨rfl, rfl⟩)
    · exact .refl b s
  · split
    · exact ((BankWork.modBank b _ _).trans (.reportComplete b _ _)).trans (.afterTransfer b _)
    · exact .modBank b _ _

theorem BankWork.applyFlow (b : Bank) (s : State) : BankWork b s (s.applyFlow b) := by
  unfold State.applyFlow
  split
  · exact .refl b s
  · split
    · split
      · exact .meter b s _
      · exact .faultBank b s _
    · exact .faultBank b s _

theorem BankWork.applyNoFlow (b : Bank) (s : State) : BankWork b s (s.applyNoFlow b) := by
  unfold State.applyNoFlow
  split
  · exact .refl b s
  · split
    · exact (BankWork.modBank b s _).trans (.raise b _ _ _)
    · exact .modBank b s _

theorem BankWork.applyFlushExpiry (b : Bank) (s : State) : BankWork b s (s.applyFlushExpiry b) := by
  unfold State.applyFlushExpiry
  dsimp only
  split
  · exact .modBank b s _
  · exact (BankWork.modBank b s _).trans (.enterReady b _)

theorem BankWork.applyRinseMatch (b : Bank) (s : State) : BankWork b s (s.applyRinseMatch b) := by
  unfold State.applyRinseMatch
  dsimp only
  split
  · exact (BankWork.modBank b s _).trans (.raise b _ _ _)
  · exact (BankWork.modBank b s _).trans (.actOnRinse b _)

/-! ### Work of the banks -/

/-- `t` is `s` after work of some banks, which may have drawn a free order. -/
structure BanksWork (s t : State) : Prop where
  frame : t = { s with vats := t.vats, banks := t.banks, links := t.links, drawn := t.drawn }
  vats : VatsStay s t
  links : LinksGain s t

theorem BanksWork.refl (s : State) : BanksWork s s := ⟨rfl, .refl s, .refl s⟩

theorem BanksWork.trans {s t u : State} (h : BanksWork s t) (h' : BanksWork t u) : BanksWork s u :=
  ⟨by rw [h'.frame, h.frame], h.vats.trans h'.vats, h.links.trans h'.links⟩

theorem BankWork.banks {b : Bank} {s t : State} (h : BankWork b s t) : BanksWork s t :=
  ⟨by rw [h.frame], h.vats, h.links⟩

theorem BanksWork.parkLooks (s : State) (bs : List Bank) : BanksWork s (s.parkLooks bs) := by
  unfold State.parkLooks
  induction bs generalizing s with
  | nil => exact .refl s
  | cons b bs ih => exact (BankWork.parkLook b s).banks.trans (ih _)

theorem BanksWork.forEachFreely {s : State} {l : List Bank} {f : Bank → State → State}
    (h : ∀ b t, BankWork b t (f b t)) : BanksWork s (s.forEachFreely l f) :=
  State.forEachFreely_keeps (BanksWork s) s l f (.refl s) (fun _ => ⟨rfl, fun _ => ⟨rfl, rfl⟩, fun _ => .refl _⟩)
    fun b _ t ht => ht.trans (h b t).banks

theorem BanksWork.bankLooks (s : State) (becomes : Transfer → Bool) (bs : List Bank) :
    BanksWork s (s.bankLooks becomes bs) := by
  unfold State.bankLooks
  refine BanksWork.trans (.forEachFreely fun b t => ?_) (.parkLooks _ _)
  split
  · exact .enterPriming b t
  · exact .bankLook b t

theorem BanksWork.pathLimitSet (s : State) : BanksWork s s.pathLimitSet :=
  .forEachFreely fun b t => BankWork.expirePath b t

theorem BanksWork.parkDelaySet (s : State) : BanksWork s s.parkDelaySet := by
  have h : ∀ (bs : List Bank) (t : State), BanksWork t (bs.foldl State.parkBank t) := by
    intro bs
    induction bs with
    | nil => exact fun t => .refl t
    | cons b bs ih => exact fun t => (BankWork.parkBank b t).banks.trans (ih _)
  exact (BanksWork.parkLooks s allBanks).trans (h _ _)

/-! ### Work of the carriage arbiter -/

/-- `t` is `s` after work of the carriage arbiter: its lists, records and tags, vat records but for slot and service, and
notices gained. -/
structure CutWork (s t : State) : Prop where
  frame : t = { s with vats := t.vats, urgent := t.urgent, openList := t.openList, carriages := t.carriages,
                       tagCounter := t.tagCounter, lateTags := t.lateTags, lastGranted := t.lastGranted, links := t.links }
  vats : VatsStay s t
  links : LinksGain s t

theorem CutWork.refl (s : State) : CutWork s s := ⟨rfl, .refl s, .refl s⟩

theorem CutWork.trans {s t u : State} (h : CutWork s t) (h' : CutWork t u) : CutWork s u :=
  ⟨by rw [h'.frame, h.frame], h.vats.trans h'.vats, h.links.trans h'.links⟩

theorem CutWork.modCarriage (s : State) (c : Carriage) (f : CarriageRecord → CarriageRecord) :
    CutWork s (s.modCarriage c f) := ⟨rfl, fun _ => ⟨rfl, rfl⟩, fun _ => .refl _⟩

theorem CutWork.modVat (s : State) (v : Vat) (f : VatRecord → VatRecord)
    (hf : ∀ r : VatRecord, (f r).slot = r.slot ∧ (f r).service = r.service) : CutWork s (s.modVat v f) :=
  ⟨rfl, .modVat s v f hf, fun _ => .refl _⟩

theorem CutWork.raise (s : State) (l : Link) (n : Notice) : CutWork s (s.raise l n) :=
  ⟨rfl, fun _ => ⟨rfl, rfl⟩, .raise s l n⟩

theorem CutWork.raiseBoth (s : State) (l l' : Link) (n : Notice) : CutWork s (s.raiseBoth l l' n) :=
  (CutWork.raise s l n).trans (.raise _ l' n)

/-- A change of the arbiter's lists and tags alone. -/
theorem CutWork.lists (s : State) (urgent openList : List CutEntry) (tag : Nat) (late : List Nat)
    (last : Option Carriage) :
    CutWork s { s with urgent := urgent, openList := openList, tagCounter := tag, lateTags := late, lastGranted := last } :=
  ⟨rfl, fun _ => ⟨rfl, rfl⟩, fun _ => .refl _⟩

theorem CutWork.joinCut (s : State) (v : Vat) : CutWork s (s.joinCut v) := by
  unfold State.joinCut
  split <;> exact .lists s _ _ _ _ _

theorem CutWork.returnCut (s : State) (v : Vat) : CutWork s (s.returnCut v) := by
  unfold State.returnCut
  split <;> exact .lists s _ _ _ _ _

theorem CutWork.leaveCut (s : State) (v : Vat) : CutWork s (s.leaveCut v) := .lists s _ _ _ _ _

theorem CutWork.enterCutWindow (s : State) (v : Vat) : CutWork s (s.enterCutWindow v) :=
  (CutWork.modVat s v _ (by intro _; exact ⟨rfl, rfl⟩)).trans (.joinCut _ v)

theorem CutWork.moveUrgent {s t : State} {v : Vat} (h : s.moveUrgent v = some t) : CutWork s t := by
  unfold State.moveUrgent at h
  split at h
  · cases h
    exact .lists s _ _ _ _ _
  · cases h

theorem CutWork.moveAllUrgent (s : State) : CutWork s s.moveAllUrgent := .lists s _ _ _ _ _

theorem CutWork.applyCutGrant (s : State) (x : CutChoice) (c : Carriage) : CutWork s (s.applyCutGrant x c) := by
  unfold State.applyCutGrant State.withoutChosen
  refine CutWork.trans (CutWork.trans (CutWork.trans ?_ (.modCarriage _ c _))
    (.modVat _ _ _ (by intro _; exact ⟨rfl, rfl⟩))) (.raise _ _ _)
  split <;> exact .lists s _ _ _ _ _

theorem CutWork.grantCut {s t : State} (h : s.grantCut = some t) : CutWork s t := by
  unfold State.grantCut at h
  split at h
  · cases h
  · split at h
    · split at h
      · cases h
        exact .applyCutGrant s _ _
      · cases h
    · cases h

theorem CutWork.cutLook (s : State) : CutWork s s.cutLook := by
  unfold State.cutLook
  split
  · rename_i t h
    cases h' : t.grantCut with
    | none => exact .grantCut h
    | some u => exact (CutWork.grantCut h).trans (.grantCut h')
  · exact .refl s

theorem CutWork.becomeOverset (s : State) (v : Vat) : CutWork s (s.becomeOverset v) :=
  .modVat s v _ (by intro _; exact ⟨rfl, rfl⟩)

theorem CutWork.raiseOverset (s : State) (v : Vat) : CutWork s (s.raiseOverset v) := .raiseBoth s _ _ _

theorem CutWork.withdrawCut (s : State) (c : Carriage) (v : Vat) (cause : WithdrawCause) (faulted : Bool) :
    CutWork s (s.withdrawCut c v cause faulted) := by
  unfold State.withdrawCut
  dsimp only
  refine CutWork.trans ?_ (.raise _ _ _)
  split
  · exact (((CutWork.modCarriage s c _).trans (.modVat _ v _ (by intro _; exact ⟨rfl, rfl⟩))).trans
      (.becomeOverset _ v)).trans (.lists _ _ _ _ _ _)
  · exact ((CutWork.modCarriage s c _).trans (.modVat _ v _ (by intro _; exact ⟨rfl, rfl⟩))).trans (.returnCut _ v)

theorem CutWork.withdrawOrder (s : State) (c : Carriage) (cause : WithdrawCause) :
    CutWork s (s.withdrawOrder c cause) := by
  unfold State.withdrawOrder
  split
  · exact .withdrawCut s c _ _ _
  · exact .refl s

theorem CutWork.withdrawForAbsence (s : State) : CutWork s s.withdrawForAbsence := by
  unfold State.withdrawForAbsence
  split <;> exact (CutWork.withdrawOrder s _ _).trans (.withdrawOrder _ _ _)

theorem CutWork.raiseCarriageFault (s : State) (c : Carriage) (cause : CarriageFaultCause) :
    CutWork s (s.raiseCarriageFault c cause) := .raiseBoth s _ _ _

/-! ### Work of the curd line arbiter -/

/-- `t` is `s` after work of the curd line arbiter: its lists, record and lots, vat records but for slot and service, and
notices gained. -/
structure LineWork (s t : State) : Prop where
  frame : t = { s with vats := t.vats, line := t.line, lateList := t.lateList, routine := t.routine, lots := t.lots,
                       links := t.links }
  vats : VatsStay s t
  links : LinksGain s t

theorem LineWork.refl (s : State) : LineWork s s := ⟨rfl, .refl s, .refl s⟩

theorem LineWork.trans {s t u : State} (h : LineWork s t) (h' : LineWork t u) : LineWork s u :=
  ⟨by rw [h'.frame, h.frame], h.vats.trans h'.vats, h.links.trans h'.links⟩

theorem LineWork.modVat (s : State) (v : Vat) (f : VatRecord → VatRecord)
    (hf : ∀ r : VatRecord, (f r).slot = r.slot ∧ (f r).service = r.service) : LineWork s (s.modVat v f) :=
  ⟨rfl, .modVat s v f hf, fun _ => .refl _⟩

theorem LineWork.raise (s : State) (l : Link) (n : Notice) : LineWork s (s.raise l n) :=
  ⟨rfl, fun _ => ⟨rfl, rfl⟩, .raise s l n⟩

/-- A change of the line record, the dump lists and the lots alone. -/
theorem LineWork.records (s : State) (line : LineRecord) (late routine : List DumpEntry) (lots : List Lot) :
    LineWork s { s with line := line, lateList := late, routine := routine, lots := lots } :=
  ⟨rfl, fun _ => ⟨rfl, rfl⟩, fun _ => .refl _⟩

theorem LineWork.joinDump (s : State) (v : Vat) (kind : EntryKind) (early : Bool) :
    LineWork s (s.joinDump v kind early) := by
  unfold State.joinDump
  split <;> exact .records s _ _ _ _

theorem LineWork.returnDump (s : State) (v : Vat) (kind : EntryKind) (early : Bool) :
    LineWork s (s.returnDump v kind early) := by
  unfold State.returnDump
  split <;> exact .records s _ _ _ _

theorem LineWork.queueDump (s : State) (v : Vat) (kind : EntryKind) (early : Bool) :
    LineWork s (s.queueDump v kind early) :=
  (LineWork.modVat s v _ (by intro _; exact ⟨rfl, rfl⟩)).trans (.joinDump _ v kind early)

theorem LineWork.queueRoutine (s : State) (v : Vat) : LineWork s (s.queueRoutine v) :=
  (LineWork.modVat s v _ (by intro _; exact ⟨rfl, rfl⟩)).trans ⟨rfl, fun _ => ⟨rfl, rfl⟩, fun _ => .refl _⟩

theorem LineWork.moveLate {s t : State} {v : Vat} (h : s.moveLate v = some t) : LineWork s t := by
  unfold State.moveLate at h
  split at h
  · cases h
    exact .records s _ _ _ _
  · cases h

theorem LineWork.applyLineGrant (s : State) (x : DumpChoice) : LineWork s (s.applyLineGrant x) := by
  unfold State.applyLineGrant
  refine LineWork.trans (LineWork.trans ?_ (.modVat _ _ _ (by intro _; exact ⟨rfl, rfl⟩))) (.raise _ _ _)
  split <;> exact .records s _ _ _ _

theorem LineWork.lineLook (s : State) : LineWork s s.lineLook := by
  unfold State.lineLook State.grantLine
  split
  · cases h : s.chooseDump with
    | none => exact .refl s
    | some x => exact .applyLineGrant s x
  · exact .refl s

theorem LineWork.withdrawDump (s : State) (x : Lot) (cause : DumpWithdrawCause) :
    LineWork s (s.withdrawDump x cause) := by
  unfold State.withdrawDump
  refine LineWork.trans (LineWork.trans (LineWork.trans (.records s _ _ _ _)
    (.modVat _ _ _ (by intro _; exact ⟨rfl, rfl⟩))) (.returnDump _ _ _ _)) (.raise _ _ _)

/-! ### Work of any block -/

/-- `t` is `s` after work of the blocks that no reset, remap, SET or freeze is part of: what every such step keeps. -/
structure Work (s t : State) : Prop where
  settings : t.settings = s.settings
  slotMap : t.slotMap = s.slotMap
  clock : t.clock = s.clock
  inReset : t.inReset = s.inReset
  straps : t.straps = s.straps
  edit : t.edit = s.edit
  proved : t.proved = s.proved
  frozen : t.frozen = s.frozen
  restartAccepted : t.restartAccepted = s.restartAccepted
  routinePause : t.routinePause = s.routinePause
  window : t.window = s.window
  pending : t.pending = s.pending
  vats : VatsStay s t
  links : LinksGain s t

theorem Work.refl (s : State) : Work s s := ⟨rfl, rfl, rfl, rfl, rfl, rfl, rfl, rfl, rfl, rfl, rfl, rfl, .refl s, .refl s⟩

theorem Work.trans {s t u : State} (h : Work s t) (h' : Work t u) : Work s u :=
  ⟨h'.settings.trans h.settings, h'.slotMap.trans h.slotMap, h'.clock.trans h.clock, h'.inReset.trans h.inReset,
    h'.straps.trans h.straps, h'.edit.trans h.edit, h'.proved.trans h.proved, h'.frozen.trans h.frozen,
    h'.restartAccepted.trans h.restartAccepted, h'.routinePause.trans h.routinePause, h'.window.trans h.window,
    h'.pending.trans h.pending, h.vats.trans h'.vats, h.links.trans h'.links⟩

theorem BanksWork.work {s t : State} (h : BanksWork s t) : Work s t := by
  have := h.frame
  constructor <;> first | exact h.vats | exact h.links | (rw [this])

theorem BankWork.work {b : Bank} {s t : State} (h : BankWork b s t) : Work s t := h.banks.work

theorem CutWork.work {s t : State} (h : CutWork s t) : Work s t := by
  have := h.frame
  constructor <;> first | exact h.vats | exact h.links | (rw [this])

theorem LineWork.work {s t : State} (h : LineWork s t) : Work s t := by
  have := h.frame
  constructor <;> first | exact h.vats | exact h.links | (rw [this])

/-- A vat queued to be washed, and the look of the arbiter that follows. -/
theorem Work.queueWash_lineLook (s : State) (v : Vat) : Work s (s.queueWash v).lineLook :=
  (BankWork.queueWash s v).work.trans (LineWork.lineLook _).work

/-- The heal-min of a vat applied at once when it is due. -/
theorem Work.healMinAtOnce (s : State) (v : Vat) : Work s (s.healMinAtOnce v) := by
  unfold State.healMinAtOnce State.applyHealMin State.raiseStepPending
  split
  · split
    · exact ((LineWork.modVat s v _ (by intro _; exact ⟨rfl, rfl⟩)).trans (.raise _ _ _)).work
    · split
      · exact ((LineWork.queueRoutine s v).trans (.lineLook _)).work
      · exact ((LineWork.queueDump s v _ _).trans (.lineLook _)).work
  · exact .refl s

/-- The advance that waits for STEP. -/
theorem Work.advance (s : State) (v : Vat) : Work s (s.advance v) := by
  unfold State.advance
  split
  · exact .refl s
  · exact ((CutWork.enterCutWindow s v).trans (.cutLook _)).work
  · exact ((LineWork.queueDump s v _ _).trans (.lineLook _)).work

/-- The release of a held vat: every block looks. -/
theorem Work.looks (s : State) (becomes : Transfer → Bool) (bs : List Bank) :
    Work s (s.bankLooks becomes bs).cutLook.lineLook :=
  ((BanksWork.bankLooks s becomes bs).work.trans (CutWork.cutLook _).work).trans (LineWork.lineLook _).work

end Sys2Proof.Machine
end

