-- ==== Sys2Proof/Laws/Looks.lean ====
section
/-! SUPPORT. What several banks do in one step, bank by bank: each bank's record after the looks, the park timers and the
expiries is what its own look, park timer or expiry makes of it, whatever the order (log 17). -/

namespace Sys2Proof.Machine

/-! ### What a bank's own look reads -/

/-- `t` gives bank `b` what `s` gives it, as far as its looks, its park timer and its path-open limit read. -/
structure SameFor (b : Bank) (s t : State) : Prop where
  bank : t.bank b = s.bank b
  frozen : t.frozen = s.frozen
  settings : t.settings = s.settings
  clock : t.clock = s.clock
  eligible : ∀ e, t.eligible e = s.eligible e

theorem SameFor.refl (b : Bank) (s : State) : SameFor b s s := ⟨rfl, rfl, rfl, rfl, fun _ => rfl⟩

/-- Eligibility reads the held marks and the Fill station's presence alone (R54). -/
theorem State.eligible_congr {s t : State} (hv : ∀ v, (t.vat v).held = (s.vat v).held)
    (hp : t.present .fill = s.present .fill) (e : Transfer) : t.eligible e = s.eligible e := by
  simp [State.eligible, State.isHeld, hv, hp]

/-- Work of a bank that leaves the held marks leaves eligibility. -/
theorem BankWork.eligible {b : Bank} {s t : State} (h : BankWork b s t) (hv : ∀ v, (t.vat v).held = (s.vat v).held)
    (e : Transfer) : t.eligible e = s.eligible e := State.eligible_congr hv (h.links.present _) e

/-- Work of another bank that leaves the held marks leaves what bank `b` reads. -/
theorem SameFor.step {b b' : Bank} {s t u : State} (h : SameFor b s t) (hw : BankWork b' t u) (hb : b ≠ b')
    (hv : ∀ v, (u.vat v).held = (t.vat v).held) : SameFor b s u := by
  have hf := hw.frame
  refine ⟨(hw.others b hb).trans h.bank, ?_, ?_, ?_, fun e => (hw.eligible hv e).trans (h.eligible e)⟩
  · rw [hf]; exact h.frozen
  · rw [hf]; exact h.settings
  · rw [hf]; exact h.clock

/-- A free order drawn leaves what every bank reads. -/
theorem SameFor.afterFreeOrder {α : Type} (b : Bank) (s : State) (l : List α) : SameFor b s (s.afterFreeOrder l) := by
  unfold State.afterFreeOrder
  split <;> exact ⟨rfl, rfl, rfl, rfl, fun _ => rfl⟩

/-! ### The held marks -/

theorem State.modVat_held (s : State) (v : Vat) (f : VatRecord → VatRecord) (hf : ∀ r, (f r).held = r.held) (w : Vat) :
    ((s.modVat v f).vat w).held = (s.vat w).held := by
  by_cases h : w = v
  · subst h; simp [hf]
  · simp [h]

theorem State.reportTake_held (s : State) (b : Bank) (e : Transfer) (v : Vat) :
    ((s.reportTake b e).vat v).held = (s.vat v).held := by
  unfold State.reportTake
  split
  · rfl
  · rw [State.raise_vat]
    exact State.modVat_held _ _ _ (by intro r; split <;> rfl) _

theorem State.bankLook_held (s : State) (b : Bank) (v : Vat) : ((s.bankLook b).vat v).held = (s.vat v).held := by
  unfold State.bankLook
  split
  · split
    · rfl
    · split
      · exact State.reportTake_held _ _ _ _
      · split
        · exact State.reportTake_held _ _ _ _
        · rfl
  · rfl

theorem State.parkLook_held (s : State) (b : Bank) (v : Vat) : ((s.parkLook b).vat v).held = (s.vat v).held := by
  unfold State.parkLook
  split <;> rfl

theorem State.expirePath_vats (s : State) (b : Bank) : (s.expirePath b).vats = s.vats := by
  unfold State.expirePath State.raiseSuspended
  split
  · split
    · split <;> rfl
    · rfl
  · rfl
  · rfl

/-! ### A bank's own act depends on what it reads alone -/

theorem State.reportTake_bank (s : State) (b b' : Bank) (e : Transfer) : (s.reportTake b e).bank b' = s.bank b' := by
  unfold State.reportTake
  split <;> rfl

/-- A bank that finds nothing to take changes nothing. -/
theorem State.bankLook_of_idle {s : State} {b : Bank} (h : s.looksUseful b = false) : s.bankLook b = s := by
  unfold State.bankLook
  split
  · rename_i hm
    have : s.hasEligible b = false := by simpa [State.looksUseful, hm] using h
    rw [pick?_eq_none.mpr (by simpa [State.hasEligible] using this)]
  · rfl

theorem SameFor.bankLook {b : Bank} {s t : State} (h : SameFor b s t) : (t.bankLook b).bank b = (s.bankLook b).bank b := by
  have hm : t.mayTake b = s.mayTake b := by simp [State.mayTake, h.bank, h.frozen]
  have he : t.eligible = s.eligible := funext h.eligible
  unfold State.bankLook
  rw [hm, he, h.bank]
  split
  · split
    · exact h.bank
    · split
      · simp [State.takeTransfer, State.reportTake_bank, h.bank, h.settings]
      · split
        · simp [State.hitTransfer, State.reportTake_bank, h.bank, h.settings]
        · simp [State.beginClose, h.bank, h.settings, State.stoppedAt, h.clock]
  · exact h.bank

theorem SameFor.parkLook {b : Bank} {s t : State} (h : SameFor b s t) : (t.parkLook b).bank b = (s.parkLook b).bank b := by
  have he : t.eligible = s.eligible := funext h.eligible
  unfold State.parkLook State.hasEligible
  rw [h.bank, he, h.settings]
  split <;> simp [h.bank]

theorem SameFor.wakes {b : Bank} {s t : State} (h : SameFor b s t) (becomes : Transfer → Bool) :
    t.wakes becomes b = s.wakes becomes b := by
  have he : t.eligible = s.eligible := funext h.eligible
  simp [State.wakes, h.bank, he]

theorem SameFor.expirePath {b : Bank} {s t : State} (h : SameFor b s t) :
    (t.expirePath b).bank b = (s.expirePath b).bank b := by
  have hr : ∀ u : State, (u.raiseSuspended b).bank b = u.bank b ∧ (u.raiseSuspended b).settings = u.settings ∧
      (u.raiseSuspended b).clock = u.clock := by
    intro u
    unfold State.raiseSuspended
    split
    · split <;> exact ⟨rfl, rfl, rfl⟩
    · exact ⟨rfl, rfl, rfl⟩
  unfold State.expirePath
  rw [h.bank]
  split
  · simp [State.beginClose, State.stoppedAt, hr, h.bank, h.settings, h.clock]
  · simp [h.bank]
  · exact h.bank

/-! ### An act of each of several banks -/

/-- An act that is its bank's own work, leaves the held marks, and depends on what its bank reads. -/
structure OwnAct (f : Bank → State → State) : Prop where
  work : ∀ b t, BankWork b t (f b t)
  held : ∀ b t v, ((f b t).vat v).held = (t.vat v).held
  same : ∀ b s t, SameFor b s t → (f b t).bank b = (f b s).bank b

/-- The acts of banks other than `b` leave what `b` reads. -/
theorem OwnAct.others {f : Bank → State → State} (hf : OwnAct f) {b : Bank} {s : State} (m : List Bank) (hb : b ∉ m) :
    ∀ t, SameFor b s t → SameFor b s (m.foldl (fun t x => f x t) t) := by
  induction m with
  | nil => exact fun t h => h
  | cons x xs ih =>
    intro t h
    simp only [List.mem_cons, not_or] at hb
    exact ih hb.2 _ (h.step (hf.work x t) hb.1 (hf.held x t))

/-- After the acts of several banks, each once, a bank's record is what its own act makes of it. -/
theorem OwnAct.fold {f : Bank → State → State} (hf : OwnAct f) (b : Bank) (s : State) (m : List Bank) (hn : m.Nodup) :
    ∀ t, SameFor b s t →
      (b ∈ m → (m.foldl (fun t x => f x t) t).bank b = (f b s).bank b) ∧
      (b ∉ m → (m.foldl (fun t x => f x t) t).bank b = s.bank b) ∧
      ∀ e, (m.foldl (fun t x => f x t) t).eligible e = s.eligible e := by
  induction m with
  | nil => exact fun t h => ⟨fun hb => (by cases hb), fun _ => h.bank, h.eligible⟩
  | cons x xs ih =>
    intro t h
    rw [List.nodup_cons] at hn
    by_cases hx : x = b
    · subst hx
      have := hf.others xs hn.1 (f x t) (.refl x _)
      exact ⟨fun _ => this.bank.trans (hf.same x s t h), fun hb => absurd (List.mem_cons_self ..) hb,
        fun e => (this.eligible e).trans (((hf.work x t).eligible (hf.held x t) e).trans (h.eligible e))⟩
    · have := ih hn.2 (f x t) (h.step (hf.work x t) (Ne.symm hx) (hf.held x t))
      simpa [Ne.symm hx] using this

/-- The same in a free order. -/
theorem OwnAct.forEachFreely {f : Bank → State → State} (hf : OwnAct f) (b : Bank) (s : State) {m : List Bank}
    (hn : m.Nodup) :
    (b ∈ m → (s.forEachFreely m f).bank b = (f b s).bank b) ∧
    (b ∉ m → (s.forEachFreely m f).bank b = s.bank b) ∧
    ∀ e, (s.forEachFreely m f).eligible e = s.eligible e := by
  have hp := s.inFreeOrder_perm m
  have := hf.fold b s (s.inFreeOrder m) (hp.nodup_iff.mpr hn) _ (.afterFreeOrder b s m)
  simp only [hp.mem_iff] at this
  exact this

theorem OwnAct.parkLook : OwnAct fun b t => t.parkLook b :=
  ⟨fun b t => .parkLook b t, fun b t => t.parkLook_held b, fun _ _ _ h => h.parkLook⟩

theorem OwnAct.parkBank : OwnAct fun b t => t.parkBank b :=
  ⟨fun b t => .parkBank b t, fun _ _ _ => rfl, fun _ _ _ h => by simp [State.parkBank, h.bank, h.settings]⟩

theorem OwnAct.expirePath : OwnAct fun b t => t.expirePath b :=
  ⟨fun b t => .expirePath b t, fun b t v => by simp [State.vat, t.expirePath_vats b], fun _ _ _ h => h.expirePath⟩

/-- A bank's own part in `State.bankLooks`: a PARKED bank wakes, another looks. -/
theorem OwnAct.wakeOrLook (becomes : Transfer → Bool) :
    OwnAct fun b t => if t.wakes becomes b then t.enterPriming b else t.bankLook b := by
  refine ⟨fun b t => ?_, fun b t v => ?_, fun b s t h => ?_⟩
  · split
    · exact .enterPriming b t
    · exact .bankLook b t
  · split
    · rfl
    · exact t.bankLook_held b v
  · rw [h.wakes]
    split
    · simp [State.enterPriming, h.bank, h.settings]
    · exact h.bankLook

/-- After the park timers of several banks are looked at, a bank's record is as its own look leaves it. -/
theorem State.parkLooks_bank (s : State) {bs : List Bank} (hn : bs.Nodup) (b : Bank) :
    (b ∈ bs → (s.parkLooks bs).bank b = (s.parkLook b).bank b) ∧ (b ∉ bs → (s.parkLooks bs).bank b = s.bank b) :=
  let h := OwnAct.parkLook.fold b s bs hn s (.refl b s)
  ⟨h.1, h.2.1⟩

/-- The looks at park timers change nothing but bank records. -/
theorem State.parkLooks_frame (bs : List Bank) :
    ∀ s : State, s.parkLooks bs = { s with banks := (s.parkLooks bs).banks } := by
  induction bs with
  | nil => exact fun _ => rfl
  | cons x xs ih =>
    intro s
    have h : s.parkLook x = { s with banks := (s.parkLook x).banks } := by
      unfold State.parkLook
      split <;> rfl
    show (s.parkLook x).parkLooks xs = { s with banks := ((s.parkLook x).parkLooks xs).banks }
    rw [ih, h]

/-- After several banks have looked, a bank's record is as its own waking or look, and its own park timer, leave it (R69,
R83, R85). -/
theorem State.bankLooks_bank (s : State) (becomes : Transfer → Bool) {bs : List Bank} (hn : bs.Nodup) (b : Bank) :
    (b ∈ bs → (s.bankLooks becomes bs).bank b =
      ((if s.wakes becomes b then s.enterPriming b else s.bankLook b).parkLook b).bank b) ∧
    (b ∉ bs → (s.bankLooks becomes bs).bank b = s.bank b) := by
  have act := OwnAct.wakeOrLook becomes
  generalize hac : (bs.filter fun b => s.wakes becomes b || s.looksUseful b) = ac
  have hsub : b ∈ ac → b ∈ bs := fun h => (List.mem_filter.mp (hac ▸ h)).1
  obtain ⟨e₁, e₂, e₃⟩ := act.forEachFreely b s (m := ac) (hac ▸ hn.filter _)
  have hf := (BanksWork.forEachFreely (s := s) (l := ac) act.work).frame
  have hlooks : s.bankLooks becomes bs =
      (s.forEachFreely ac fun b t => if t.wakes becomes b then t.enterPriming b else t.bankLook b).parkLooks bs := by
    rw [← hac]
    rfl
  rw [hlooks]
  generalize (s.forEachFreely ac fun b t => if t.wakes becomes b then t.enterPriming b else t.bankLook b) = u at *
  have hu : b ∈ bs → u.bank b = (if s.wakes becomes b then s.enterPriming b else s.bankLook b).bank b := by
    intro hb
    by_cases h : b ∈ ac
    · exact e₁ h
    · rw [e₂ h]
      rw [← hac] at h
      simp only [List.mem_filter, hb, true_and, Bool.or_eq_true, not_or, Bool.not_eq_true] at h
      simp [h.1, State.bankLook_of_idle h.2]
  refine ⟨fun hb => ?_, fun hb => ((u.parkLooks_bank hn b).2 hb).trans (e₂ fun h => hb (hsub h))⟩
  rw [(u.parkLooks_bank hn b).1 hb]
  have hw := act.work b s
  have hg := hw.frame
  refine SameFor.parkLook ⟨hu hb, ?_, ?_, ?_, fun e => (e₃ e).trans (hw.eligible (act.held b s) e).symm⟩
  all_goals rw [hf, hg]

end Sys2Proof.Machine
end

