-- ==== Sys2Proof/Tests/Slice0.lean ====
section
/-! SUPPORT. Tests of the model: what the check of well-formedness refuses, some results on small states, and for each
statement a state and operands that meet its hypotheses. -/

namespace Sys2Proof.Tests

set_option maxRecDepth 8000
set_option Elab.async false

open Sys2Proof.Machine

/-! ### Small states -/

/-- A request frame with a tag of 0x11. -/
def frame (kind : Byte) (payload : List Byte) : Frame := ⟨kind, 0x11, 0, payload⟩

/-- A state with one request waiting on a link. -/
def asked (l : Link) (kind : Byte) (payload : List Byte) (s : State) : State :=
  s.modLink l fun u => { u with buffer := [frame kind payload] }

/-- A state with a station PRESENT. -/
def heardFrom (l : Link) (s : State) : State := s.modLink l fun u => { u with presence := some 0 }

/-- The next state of an answer, or the state given when there is none. -/
def nextOf (o : Answer) (s : State) : State :=
  match o with
  | .next t => t
  | _ => s

/-- A state with a vat in a stage. -/
def staged (v : Vat) (x : Stage) (s : State) : State := s.modVat v fun r => { r with stage := x }

/-- A state with a bank in a state, not in the start sequence. -/
def banked (b : Bank) (x : BankState) (s : State) : State :=
  s.modBank b fun k => { k with state := x, startPhase := none, flushesDone := none, travel := none }

/-- The fill of vat 1 with 995 of 1,000 L metered. -/
def fill1 (phase : Phase) (cancel : Bool) : Current := ⟨⟨0, .fill, 1000, 995, false⟩, phase, cancel⟩

/-- The wash of vat 2 with 395 of 400 L metered. -/
def wash2 (phase : Phase) : Current := ⟨⟨1, .wash, 400, 395, false⟩, phase, false⟩

/-- Bank 1 OPEN on a path with a transfer. -/
def feeding (v : Vat) (c : Option Current) (s : State) : State :=
  (banked 0 .opened s).modBank 0 fun k => { k with path := some v, current := c, pathOpen := some 0 }

/-- Vat 1 CUT-WINDOW, with carriage 1 ORDERED for it under tag 7. -/
def orderedCut (s : State) : State :=
  (s.modCarriage 0 fun k =>
    { k with state := .ordered, vat := some 0, tag := some 7, orderedAt := some 0, start := some ⟨90, 90⟩ }).modVat 0
      fun r => { r with stage := .cutWindow, carriage := some 0, snapshot := some ⟨1800, 2400, 1500, 2700⟩ }

/-- Vat 1 CUTTING in carriage 1. -/
def cutting (x : CarriageState) (s : State) : State :=
  ((orderedCut s).modCarriage 0 fun k => { k with state := x, start := none, slice := some ⟨900, 900⟩ }).modVat 0
    fun r => { r with stage := .cutting }

/-- A lot numbered 5 for vat 1. -/
def lot5 (kind : LotKind) (x : LotState) : Lot := ⟨5, 0, some 0, some 1, kind, false, 1000, none, false, x, 0⟩

/-- The line with lot 5 as its current lot. -/
def lined (x : LineState) (lot : Lot) (s : State) : State :=
  { s with lots := [lot] }.modLine fun k =>
    { k with state := x, current := some 5, start := some ⟨60, 60⟩, duration := some ⟨1200, 1200⟩ }

/-! ### Well-formedness, and the words of the table -/

theorem test_consolePresenceTimeout_illFormed : (Instr.presenceTimeout .console).wellFormed = false := by decide

theorem test_stationPresenceTimeout_wellFormed :
    (Instr.presenceTimeout .fill).wellFormed = true ∧ (Instr.presenceTimeout .cut).wellFormed = true ∧
      (Instr.presenceTimeout .press).wellFormed = true := by decide

theorem test_illFormed_has_no_effect (s : State) : exec (.presenceTimeout .console) s = .next s := by
  cases h : (s.link .console).presence <;> simp [exec, execPresenceTimeout, State.presenceDue, h]

theorem test_noWord_spells_a_command : decodeTableWord 8 0 = none ∧ State.reset.withFetchWord 8 0 = State.reset := ⟨rfl, rfl⟩

/-! ### Frames and codes -/

/-- The check value of CRC-16/CCITT-FALSE for the digits 1 to 9 (R143). -/
theorem test_crc : crcOf [0x31, 0x32, 0x33, 0x34, 0x35, 0x36, 0x37, 0x38, 0x39] = 0x29B1 := by decide +kernel

theorem test_escapes : lineBytes 0x01 0x5A 0x5B [] =
    0x5A :: 0x01 :: 0x5B :: 0x7A :: 0x5B :: 0x7B ::
      (lowFirst 2 (crcOf [0x01, 0x5A, 0x5B]).toNat).flatMap escaped ++ [0x5A] := by decide +kernel

theorem test_statusFrame_is_received :
    ((State.reset.receiveAll .fill (lineBytes 0x01 0x22 0 [])).link .fill).buffer = [⟨0x01, 0x22, 0, []⟩] := by
  decide +kernel

theorem test_items : ((List.range 100).filterMap itemOf?).length = 59 := by decide +kernel

theorem test_characters :
    characterLevels 0x5A = [false, false, true, false, true, true, false, true, false, true] ∧
      State.reset.bitRate = 9600 ∧ ({ State.reset with straps := ⟨true, true⟩ } : State).bitRate = 115200 ∧
      State.reset.transmitLevels .cut = [] := by decide +kernel

/-- Vat 1 WORKING, its heal-min and heal-max due in this second. -/
def healing (m : Bool) : State := (staged 0 .working State.reset).modVat 0 fun r =>
  { r with healMin := some 0, healMax := some 0, stepMode := m }

/-- Heal-min before heal-max puts the entry in ROUTINE; heal-max before heal-min puts it in LATE (log 37). -/
theorem test_heal_orders :
    (nextOf (exec (.healMinReached 0) (healing false)) State.reset).routine = [⟨0, some 0, .normal, false, 0⟩] ∧
      (nextOf (exec (.healMinReached 0) (nextOf (exec (.healMaxReached 0) (healing false)) State.reset))
        State.reset).lateList = [⟨0, some 0, .normal, false, 0⟩] := by decide +kernel

/-! ### Results on small states -/

theorem test_fillOrder_queues :
    let s := nextOf (exec (.fillOrder .fill false) (asked .fill 0x10 [1, 0, 0xE8, 3, 9, 0] State.reset)) State.reset
    (s.vat 0).stage = .fillQueued ∧ (s.bank 0).list = [⟨0, .fill, 1000, 0, false⟩] ∧
      (s.link .fill).queue = [.reply 0x90 0x11 .done [.vat 0, .bank 0]] := by decide +kernel

theorem test_set_without_permit :
    ((nextOf (exec (.set .console false) (asked .console 0x50 [44, 9, 0] State.reset)) State.reset).link .console).queue =
      [.reply 0xD0 0x11 .permit []] := by decide +kernel

theorem test_set_with_permit :
    (nextOf (exec (.set .console true) (asked .console 0x50 [44, 9, 0] State.reset)) State.reset).settings.travelLimit =
      9 := by decide +kernel

theorem test_flow_completes_fill :
    let s := nextOf (exec (.flowPulse 0) (feeding 0 (some (fill1 .running false)) (staged 0 .filling State.reset)))
      State.reset
    (s.vat 0).stage = .charged ∧ (s.bank 0).current = none ∧ (s.outputs 0).feed = false := by decide +kernel

theorem test_provedFall_starts_flush :
    (((nextOf (exec (.provedFall 0) State.reset) State.reset).bank 0).startPhase) = some .flush := by decide +kernel

theorem test_grant_orders_cut :
    let s := (staged 0 .cutWindow (heardFrom .cut State.reset)).joinCut 0 |>.cutLook
    (s.carriage 0).state = .ordered ∧ (s.carriage 0).tag = some 1 ∧ (s.vat 0).carriage = some 0 ∧ s.urgent = [] := by
  decide +kernel

theorem test_dumpDone_washes_vat :
    let s := nextOf (exec (.dumpDone .press false)
      (asked .press 0x31 [5, 0, 0xE8, 3] (lined .running (lot5 .normal .running) State.reset))) State.reset
    (s.vat 0).stage = .washing ∧ s.line.state = .free ∧ s.window = [⟨5, false⟩] ∧ (s.bank 0).list.length = 1 := by
  decide +kernel

/-! ### What meets the statements' hypotheses: the machine and its resets -/

theorem test_meets_StepTakesFrontCommand :
    ({ State.reset with pending := [.resetnAsserted] } : State).pending = .resetnAsserted :: [] := rfl

theorem test_meets_EmptyQueueTicksWhenNothingIsDue :
    (State.reset.pending = [] ∧ State.reset.inReset = false ∧ State.reset.dueEvents = [] ∧ State.reset.ownEvents = []) ∧
      State.reset.holdReset.inReset = true ∧
      (State.reset.modBank 0 fun k => { k with travel := some ⟨8, 8⟩ }).dueEvents ≠ [] ∧
      ({ State.reset with clock := 4294967294 } : State).clock + 1 < Config.clockRange := by decide +kernel

/-- An accepted RESTART whose reply is being sent. -/
def restarting (sent : Option SentFrame) : State :=
  { State.reset with restartAccepted := true }.modLink .console fun u => { u with sending := sent }

theorem test_meets_ResetsTakeEffect :
    State.reset.holdReset.inReset = true ∧ State.reset.inReset = false ∧
      ((restarting (some ⟨.reply 0xD4 1 .done [], 0⟩)).restartAccepted = true ∧
        ((restarting (some ⟨.reply 0xD4 1 .done [], 0⟩)).link .console).sending = some ⟨.reply 0xD4 1 .done [], 0⟩) ∧
      ((restarting none).restartAccepted = true ∧ ((restarting none).link .console).inBreak = false ∧
        ((restarting none).link .console).sending = none) := by decide +kernel

/-! ### A state that every invariant allows: vat 1 filling, and a pulse waiting -/

/-- Vat 1 FILLING on bank 1, with a FLOW pulse next. -/
def filling : State :=
  { feeding 0 (some (fill1 .running false)) State.reset with pending := [.flowPulse 0] }.modVat 0 (fun r =>
    { r with stage := .filling, batch := some 1, recipe := some 0, snapshot := some ⟨1800, 2400, 1500, 2700⟩,
             target := some 1000, filled := 995 }) |>.modBank 0 fun k => { k with noFlow := some ⟨0, 30⟩ }

theorem filling_steps : ∃ t, step filling = .next t := ⟨_, rfl⟩

theorem test_meets_EveryStepKeepsSettings : SettingsHold filling ∧ ∃ t, step filling = .next t := by
  refine ⟨fun i => ?_, filling_steps⟩
  cases i <;> first | decide +kernel | (rename_i c; revert c; decide +kernel)

theorem test_meets_EveryStepKeepsSlots : SlotsAgree filling ∧ ∃ t, step filling = .next t :=
  ⟨by unfold SlotsAgree; decide +kernel, filling_steps⟩

theorem filling_links : LinksHold filling := by
  intro l
  cases l <;> decide +kernel

theorem test_meets_EveryStepKeepsLinkRoom : LinksHold filling ∧ ∃ t, step filling = .next t :=
  ⟨filling_links, filling_steps⟩

theorem filling_lots : LotsHold filling := by unfold LotsHold; decide +kernel

theorem test_meets_EveryStepKeepsLotRoom : LotsHold filling ∧ ∃ t, step filling = .next t := ⟨filling_lots, filling_steps⟩

/-- The banks of the state. -/
theorem filling_bank (b : Bank) : filling.bank b =
    if b = 0 then
      { BankRecord.reset 8 with
        state := .opened, startPhase := none, flushesDone := none, travel := none, path := some 0,
        current := some (fill1 .running false), pathOpen := some 0, noFlow := some ⟨0, 30⟩ }
    else BankRecord.reset 8 := by
  revert b
  decide +kernel

theorem filling_banks : BanksHold filling := by
  intro b
  rw [filling_bank]
  by_cases h : b = 0 <;>
    constructor <;> simp [h, BankRecord.reset, BankRecord.onPath, fill1, Current.watched]

theorem test_meets_EveryStepKeepsBanks : BanksHold filling ∧ ∃ t, step filling = .next t := ⟨filling_banks, filling_steps⟩

theorem filling_carriage (c : Carriage) : filling.carriage c = CarriageRecord.reset := by
  revert c
  decide +kernel

theorem filling_carriages : CarriagesHold filling ∧ LateTagsHold filling := by
  refine ⟨⟨fun c => ?_, by decide +kernel⟩, ⟨by decide +kernel, by decide +kernel, fun c c' _ t h => ?_⟩⟩
  · rw [filling_carriage]
    constructor <;> simp [CarriageRecord.reset]
  · rw [filling_carriage] at h
    cases h

theorem test_meets_EveryStepKeepsCarriages :
    (CarriagesHold filling ∧ LateTagsHold filling) ∧ ∃ t, step filling = .next t := ⟨filling_carriages, filling_steps⟩

theorem filling_line : LineHolds filling := by
  have h : filling.line = LineRecord.reset := by decide +kernel
  unfold LineHolds
  rw [h]
  constructor <;> simp [LineRecord.reset]

theorem test_meets_EveryStepKeepsLine : LineHolds filling ∧ ∃ t, step filling = .next t := ⟨filling_line, filling_steps⟩

theorem filling_claims : ClaimsHold filling := by
  intro v
  by_cases h : v = 0
  · subst h
    have hs : (filling.vat 0).stage = .filling := by decide +kernel
    unfold State.claimed State.inBank
    simp only [hs]
    exact ⟨.inr (by decide +kernel), by decide +kernel, by decide +kernel⟩
  · have hs : ∀ v : Vat, v ≠ 0 → (filling.vat v).stage = .vacant ∧ filling.places v = [] ∧
        (filling.vat v).carriage = none ∧ (filling.vat v).lot = none := by decide +kernel
    obtain ⟨h₁, h₂, h₃, h₄⟩ := hs v h
    unfold State.claimed
    simp only [h₁]
    exact ⟨h₂, h₃, h₄⟩

theorem filling_room : RoomHolds filling := by
  refine ⟨filling_claims, ⟨by decide +kernel, by decide +kernel, fun n h => ?_⟩, filling_lots, filling_banks,
    filling_carriages.1, filling_carriages.2, filling_line, fun b c h hc => ?_⟩
  · have h' : filling.line.current = none := by decide +kernel
    rw [h'] at h
    cases h
  · have h' : ∀ b : Bank, (filling.bank b).current.all fun c => !c.cancel := by decide +kernel
    have h'' := h' b
    rw [h] at h''
    simp [hc] at h''

theorem filling_vats : VatsHold filling := by
  intro v
  have h : filling.vat v = if v = 0 then
      { VatRecord.reset 0 with
        stage := .filling, batch := some 1, recipe := some 0, snapshot := some ⟨1800, 2400, 1500, 2700⟩,
        target := some 1000, filled := 995 }
    else VatRecord.reset v := by
    revert v
    decide +kernel
  rw [h]
  by_cases h0 : v = 0 <;> constructor <;> simp [h0, VatRecord.reset, VatRecord.cleared]

theorem test_meets_EveryStepKeepsClaims : (RoomHolds filling ∧ VatsHold filling) ∧ ∃ t, step filling = .next t :=
  ⟨⟨filling_room, filling_vats⟩, filling_steps⟩

theorem test_meets_EveryStepKeepsVats :
    (RoomHolds filling ∧ VatsHold filling ∧ SlotsAgree filling) ∧ ∃ t, step filling = .next t :=
  ⟨⟨filling_room, filling_vats, test_meets_EveryStepKeepsSlots.1⟩, filling_steps⟩

/-! ### Links -/

/-- A link with an open frame. -/
def opened (f : OpenFrame) : State := State.reset.modLink .fill fun u => { u with assembly := some f }

theorem test_meets_FrameSentIsFrameReceived :
    (State.reset.link .cut).assembly = none ∧ (0x7F : Byte).msb = false ∧ (List.replicate 48 (0x5A : Byte)).length ≤ 48 := by
  decide +kernel

theorem test_meets_FrameSentIsFrameReceived_line :
    ((State.reset.modLink .cut fun u => { u with sending := some ⟨.reply 0x81 1 .done [], 1⟩ }).link .cut).sending =
      some ⟨.reply 0x81 1 .done [], 1⟩ ∧ (State.reset.link .cut).sending = none ∧
      State.reset.straps = ⟨false, false⟩ := by decide +kernel

theorem test_meets_CharactersBuildFrames :
    (State.reset.inReset = false ∧ (State.reset.link .fill).inBreak = false ∧ (State.reset.link .fill).assembly = none) ∧
      (((opened .fresh).link .fill).inBreak = false ∧ ((opened .fresh).link .fill).assembly = some .fresh ∧
        OpenFrame.fresh.received = false ∧ (OpenFrame.fresh.add 1).received = true) ∧
      (OpenFrame.fresh.escape = false ∧ (0x7A : Byte) ≠ escapeByte ∧ (List.replicate 52 (0 : Byte)).length < 53 ∧
        53 ≤ (List.replicate 53 (0 : Byte)).length) ∧
      (OpenFrame.fresh.add 0x5B).escape = true ∧ (0x79 : Byte) ≠ 0x7A ∧ (0x7C : Byte) ≠ 0x7B := by
  decide +kernel

theorem test_meets_CharactersBuildFrames_escape :
    let f : OpenFrame := ⟨List.replicate 53 0, true, true, false, false⟩
    f.escape = true ∧ 53 ≤ f.bytes.length := by decide +kernel

/-- A good open frame that asks STATUS, and the same frame without its last byte. -/
def statusFrame : OpenFrame := ⟨frameBytes 0x01 0x22 0 [], false, true, false, false⟩
def shortFrame : OpenFrame := ⟨(frameBytes 0x01 0x22 0 []).dropLast, false, true, false, false⟩

/-- A frame that waits. -/
def waiting : Frame := frame 0x01 []

theorem test_meets_ClosedFramesAreChecked :
    (((opened shortFrame).link .fill).assembly = some shortFrame ∧ shortFrame.received = true ∧ shortFrame.valid = none) ∧
      (statusFrame.valid = some ⟨0x01, 0x22, 0, []⟩ ∧ ((opened statusFrame).link .fill).buffer.length < 2) ∧
      2 ≤ (((opened statusFrame).modLink .fill fun u => { u with buffer := [waiting, waiting] }).link .fill).buffer.length := by
  decide +kernel

theorem test_meets_GapsAndFrameEnds :
    (State.reset.inReset = false ∧ ((opened statusFrame).link .fill).assembly = some statusFrame ∧
      statusFrame.received = true ∧ statusFrame.gapEnded = false) ∧
      ((opened .fresh).link .fill).assembly = some .fresh ∧ State.reset.sendsRestartReply .console = false := by
  decide +kernel

theorem test_meets_PresenceFollowsFramesAndTimeout :
    ((heardFrom .cut State.reset).link .cut).presence = some 0 ∧ (State.reset.link .fill).presence = none ∧
      (State.reset.link .cut).presence = none ∧ (State.reset.link .press).presence = none ∧
      (∀ l : Link, l = .fill ∨ l = .cut ∨ l = .press →
        ((State.reset.modLink l fun u => { u with presence := some 10 }).link l).presence = some 10 ∧
          (State.reset.modLink l fun u => { u with presence := some 10 }).settings.presenceTimeout ≤ 10) := by
  refine ⟨by decide +kernel, by decide +kernel, by decide +kernel, by decide +kernel, fun l h => ?_⟩
  rcases h with rfl | rfl | rfl <;> decide +kernel

theorem test_meets_PresenceFollowsFramesAndTimeout_carriages (c : Carriage) : (State.reset.carriage c).Sound := by
  have h : State.reset.carriage c = CarriageRecord.reset := by
    revert c
    decide +kernel
  rw [h]
  constructor <;> simp [CarriageRecord.reset]

theorem test_meets_BreakEmptiesLink :
    State.reset.inReset = false ∧ (State.reset.link .console).inBreak = false ∧ State.reset.restartUnsent = false := by
  decide +kernel

/-- Both carriages ORDERED, carriage 1 for vat 1 and carriage 2 for vat 24, one of them granted later. -/
def orderedCuts (later : Carriage) : State :=
  { (orderedCut State.reset).modCarriage 1 fun k =>
      { k with state := .ordered, vat := some 23, tag := some 8, orderedAt := some 0, start := some ⟨0, 90⟩ } with
    lastGranted := some later }

theorem test_meets_BreakEmptiesLink_absent :
    (∀ l ∈ [Link.fill, .cut, .press], ((heardFrom l State.reset).link l).presence = some 0 ∧
      (heardFrom l State.reset).inReset = false ∧ ((heardFrom l State.reset).link l).inBreak = false) ∧
    (∀ c : Carriage, (State.reset.carriage c).state ≠ .ordered) ∧
    (((orderedCut State.reset).carriage 0).vat = some 0 ∧ ((orderedCut State.reset).carriage 1).state ≠ .ordered) ∧
    (∀ later : Carriage, (orderedCuts later).lastGranted = some later ∧
      (∀ c : Carriage, ((orderedCuts later).carriage c).state = .ordered) ∧
      ((orderedCuts later).carriage 0).vat = some 0 ∧ ((orderedCuts later).carriage 1).vat = some 23) := by
  decide +kernel

/-- A state with one message waiting on a link. -/
def queued (m : Message) : State := State.reset.modLink .cut fun u => { u with queue := [m] }

theorem test_meets_SendingReadsMarks :
    ((queued (.reply 0x81 1 .done [])).inReset = false ∧ ((queued (.reply 0x81 1 .done [])).link .cut).sending = none ∧
      ((queued (.reply 0x81 1 .done [])).link .cut).queue = [.reply 0x81 1 .done []]) ∧
      ((queued (.notice (.stationPresent .cut))).link .cut).queue = [.notice (.stationPresent .cut)] := by
  decide +kernel

/-! ### Every request -/

theorem test_meets_FirstChecksDecide :
    ((asked .fill 0x02 [] State.reset).takable .fill = some (frame 0x02 []) ∧
      (frame 0x02 []).request = .unknownKindRequest) ∧
    ((asked .fill 0x10 [] State.reset).takable .fill = some (frame 0x10 []) ∧ (frame 0x10 []).request = .fillOrder ∧
      (frame 0x10 []).payload.length ≠ payloadSize .fillOrder) ∧
    ((asked .cut 0x11 [1] State.reset).takable .cut = some (frame 0x11 [1]) ∧ (frame 0x11 [1]).request = .fillCancel ∧
      (frame 0x11 [1]).payload.length = payloadSize .fillCancel ∧ allowedOn .fillCancel .cut = false) ∧
    ((asked .console 0x54 [] State.reset).takable .console = some (frame 0x54 []) ∧ (frame 0x54 []).request = .restart ∧
      (frame 0x54 []).payload.length = payloadSize .restart ∧ allowedOn .restart .console = true ∧
      isConfiguration .restart = true) := by decide +kernel

theorem test_meets_FirstChecksDecide_fields :
    (∀ p ∈ [[0], [33]], Asks (asked .fill 0x11 p State.reset) .fill false .fillCancel (frame 0x11 p) ∧
      fieldsInRange State.reset.settings .fillCancel (frame 0x11 p) = false) ∧
    (Asks (asked .console 0x50 [44, 61, 0] State.reset) .console true .set (frame 0x50 [44, 61, 0]) ∧
      fieldsInRange State.reset.settings .set (frame 0x50 [44, 61, 0]) = false) ∧
    (Asks (asked .fill 0x11 [32] State.reset) .fill false .fillCancel (frame 0x11 [32]) ∧
      fieldsInRange State.reset.settings .fillCancel (frame 0x11 [32]) = true ∧ resolvesSlot .fillCancel = true ∧
      slotOf? ((frame 0x11 [32]).byteAt 0) = some 31 ∧ State.reset.slotMap[(31 : Slot)] = none) := by decide +kernel

theorem test_meets_OneReplyForEachRequest :
    (asked .press 0x34 [] State.reset).takable .press = some (frame 0x34 []) ∧ (frame 0x34 []).request = .mouldsLow := by
  decide +kernel

theorem test_meets_ReportsFitTheirPayload : LotsHold { State.reset with
    lots := List.replicate 12 (lot5 .normal .pressing), window := List.replicate 8 ⟨5, false⟩ } := by
  unfold LotsHold
  decide +kernel

theorem test_meets_StatusReportsAndClearsMarks :
    Asks (asked .fill 0x01 [] State.reset) .fill false .status (frame 0x01 []) ∧
      Asks (asked .console 0x01 [] State.reset) .console true .status (frame 0x01 []) := by decide +kernel

/-! ### The Fill link -/

/-- A FILL ORDER of slot 1, class 7, 1,000 L, batch 9. -/
def fillOrder1 : Frame := frame 0x10 [1, 7, 0xE8, 3, 9, 0]

theorem test_meets_FillOrderChargesVat :
    (slotOf? (fillOrder1.byteAt 0) = some 0 ∧ classOf? (fillOrder1.byteAt 1) = some 7 ∧ fillOrder1.pairAt 2 = 1000 ∧
      (frame 0x10 [32, 0, 0x30, 0x75, 9, 0]).pairAt 2 = 30000) ∧
    (∀ t ∈ [State.reset, { State.reset with slotMap := State.reset.slotMap.set 0 none },
        State.reset.modVat 0 (fun r => { r with service := .outOfUse }),
        State.reset.modVat 0 (fun r => { r with held := true }), staged 0 .charged State.reset],
      Asks (asked .fill 0x10 [1, 7, 0xE8, 3, 9, 0] t) .fill false .fillOrder fillOrder1) ∧
    State.reset.slotMap[(0 : Slot)] = some 0 ∧ State.reset.slotMap[(31 : Slot)] = none ∧
      (State.reset.vat 0).service = .inUse ∧ (State.reset.vat 0).held = false ∧ (State.reset.vat 0).stage = .vacant := by
  decide +kernel

theorem test_meets_FillOrderChargesVat_zone : SettingsHold filling := test_meets_EveryStepKeepsSettings.1

theorem test_meets_JoiningEntriesWaitWakeOrAreTaken :
    (State.reset.bank 0).state = .start ∧ (State.reset.bank 0).park = none ∧
      ((banked 0 .parked State.reset).bank 0).state = .parked ∧
      (((banked 0 .ready State.reset).bank 0).state = .ready ∧ ((banked 0 .ready State.reset).bank 0).list = [] ∧
        (banked 0 .ready State.reset).frozen.banks = false ∧ ((banked 0 .ready State.reset).bank 0).rinsePending = false ∧
        ((banked 0 .ready State.reset).vat 0).held = false ∧
        (heardFrom .fill (banked 0 .ready State.reset)).present .fill = true) := by decide +kernel

/-- Bank 1 in a state, with the wash of vat 1, held, before the wash of vat 2 in its list. -/
def washing (x : BankState) : State :=
  ((banked 0 x State.reset).modBank 0 fun k =>
    { k with path := if x = .opened then some 1 else none,
             list := [⟨0, .wash, 400, 0, false⟩, ⟨1, .wash, 400, 0, false⟩] }).modVat 0 fun r => { r with held := true }

theorem test_meets_JoiningEntriesWaitWakeOrAreTaken_looks :
    (∀ x ∈ [BankState.ready, .opened, .parked], ((washing x).bank 0).state = x ∧ ((washing x).bank 0).current = none ∧
      ((washing x).bank 0).rinsePending = false ∧ (washing x).frozen.banks = false ∧
      (washing x).eligible ⟨0, .wash, 400, 0, false⟩ = false ∧ (washing x).eligible ⟨1, .wash, 400, 0, false⟩ = true) ∧
    (((washing .opened).bank 0).path = some 1 ∧
      (((washing .opened).modBank 0 fun k => { k with path := some 4 }).bank 0).path ≠ some 1) ∧
    (State.reset.settings.parkDelay ≠ 0 ∧ ∀ e ∈ ((banked 0 .ready State.reset).bank 0).list,
      (banked 0 .ready State.reset).eligible e = false) ∧ allBanks.Nodup := by decide +kernel

/-- Vat 1 FILLING, its transfer current on bank 1 in a phase. -/
def fillingIn (x : Phase) : State := feeding 0 (some (fill1 x false)) (staged 0 .filling State.reset)

theorem test_meets_FillCancelEndsFill :
    (∀ t ∈ [State.reset, staged 0 .fillQueued State.reset, staged 0 .filling State.reset, fillingIn .openingPath,
        fillingIn .stalled], Asks (asked .fill 0x11 [1] t) .fill false .fillCancel (frame 0x11 [1])) ∧
    slotOf? ((frame 0x11 [1]).byteAt 0) = some 0 ∧ State.reset.slotMap[(0 : Slot)] = some 0 ∧ State.reset.bankOf 0 = 0 ∧
    (((staged 0 .filling State.reset).bank 0).current = none ∧ ((staged 0 .filling State.reset).vat 0).filled = 0 ∧
      0 < ((filling.modBank 0 fun k => { k with current := none }).vat 0).filled) ∧
    ((fillingIn .openingPath).bank 0).current = some (fill1 .openingPath false) ∧
      ((fillingIn .stalled).bank 0).current = some (fill1 .stalled false) := by decide +kernel

theorem test_meets_FillResumeRunsStalledFill :
    (∀ t ∈ [{ State.reset with slotMap := State.reset.slotMap.set 0 none },
        State.reset.modVat 0 (fun r => { r with held := true }), State.reset, fillingIn .stalled, fillingIn .running,
        staged 0 .filling (banked 0 .faulted State.reset)],
      Asks (asked .fill 0x12 [1] t) .fill false .fillResume (frame 0x12 [1])) ∧
    ((fillingIn .stalled).vat 0).stage = .filling ∧ ((fillingIn .stalled).vat 0).held = false ∧
      (fillingIn .stalled).bankOf 0 = 0 ∧ ((fillingIn .stalled).bank 0).state ≠ .faulted ∧
      ((fillingIn .running).bank 0).current = some (fill1 .running false) := by decide +kernel

theorem test_meets_SetFixesCutWindow :
    (∀ t ∈ [{ State.reset with slotMap := State.reset.slotMap.set 0 none }, State.reset,
        staged 0 .charged (State.reset.modVat 0 fun r => { r with snapshot := some ⟨300, 360, 0, 0⟩ })],
      Asks (asked .fill 0x13 [1] t) .fill false .setSlot (frame 0x13 [1])) ∧
    ((State.reset.modVat 0 fun r => { r with snapshot := some ⟨300, 360, 0, 0⟩ }).vat 0).snapshot =
      some ⟨300, 360, 0, 0⟩ ∧ 0 + 360 < Config.clockRange := by decide +kernel

theorem test_meets_QueriesReportAndChangeNothing :
    Asks (asked .fill 0x14 [1, 0] State.reset) .fill false .vatQuery (frame 0x14 [1, 0]) ∧
    Asks (asked .console 0x40 [1, 24, 1] State.reset) .console false .queryVat (frame 0x40 [1, 24, 1]) ∧
    Asks (asked .console 0x40 [2, 4, 0] State.reset) .console false .queryBank (frame 0x40 [2, 4, 0]) ∧
    Asks (asked .console 0x40 [3, 2, 0] State.reset) .console false .queryCarriage (frame 0x40 [3, 2, 0]) ∧
    Asks (asked .console 0x40 [4, 0, 0] State.reset) .console false .queryLine (frame 0x40 [4, 0, 0]) ∧
    Asks (asked .console 0x40 [5, 0, 0] State.reset) .console false .queryLotList (frame 0x40 [5, 0, 0]) ∧
    Asks (asked .console 0x40 [6, 0, 0] State.reset) .console false .queryCutLists (frame 0x40 [6, 0, 0]) ∧
    Asks (asked .console 0x40 [7, 0, 0] State.reset) .console false .queryDumpLists (frame 0x40 [7, 0, 0]) ∧
    Asks (asked .console 0x40 [8, 0, 0] State.reset) .console false .queryEarlyWindow (frame 0x40 [8, 0, 0]) ∧
    vatOf? 24 = some 23 ∧ bankOf? 4 = some 3 ∧ carriageOf? 2 = some 1 := by decide +kernel

/-! ### The Cut link -/

theorem test_meets_TagsAreMatched :
    (∀ t ∈ [State.reset, orderedCut State.reset, cutting .cutting State.reset, { State.reset with lateTags := [7] }],
      Asks (asked .cut 0x20 [7] t) .cut false .cutStarted (frame 0x20 [7]) ∧
        Asks (asked .cut 0x21 [7] t) .cut false .cutDone (frame 0x21 [7]) ∧
        Asks (asked .cut 0x22 [7] t) .cut false .cutRefused (frame 0x22 [7])) ∧
    Asks (asked .cut 0x20 [0] State.reset) .cut false .cutStarted (frame 0x20 [0]) ∧
    (∀ c : Carriage, (State.reset.carriage c).tag ≠ some 7) ∧ (orderedCut State.reset).standing? 7 = some 0 ∧
    ((cutting .cutting State.reset).carriage 0).state ≠ .ordered := by decide +kernel

theorem test_meets_CutsStartAndEnd :
    Asks (asked .cut 0x20 [7] (orderedCut State.reset)) .cut false .cutStarted (frame 0x20 [7]) ∧
    ((orderedCut State.reset).carriage 0).vat = some 0 ∧ ((orderedCut State.reset).carriage 0).state = .ordered ∧
    (∀ x ∈ [CarriageState.cutting, .faulted],
      Asks (asked .cut 0x21 [7] (cutting x State.reset)) .cut false .cutDone (frame 0x21 [7]) ∧
        (cutting x State.reset).standing? 7 = some 0 ∧ ((cutting x State.reset).carriage 0).vat = some 0 ∧
        ((cutting x State.reset).carriage 0).state = x ∧
        ((cutting x State.reset).vat 0).snapshot = some ⟨1800, 2400, 1500, 2700⟩) ∧ 0 + 2700 < Config.clockRange := by
  decide +kernel

theorem test_meets_RefusalsAndBlocksWithdrawOrders :
    Asks (asked .cut 0x22 [7] (orderedCut State.reset)) .cut false .cutRefused (frame 0x22 [7]) ∧
    Asks (asked .cut 0x23 [1] (orderedCut State.reset)) .cut false .carriageBlock (frame 0x23 [1]) ∧
    Asks (asked .cut 0x23 [2] State.reset) .cut false .carriageBlock (frame 0x23 [2]) ∧
    (orderedCut State.reset).standing? 7 = some 0 ∧ carriageOf? 1 = some 0 ∧ carriageOf? 2 = some 1 ∧
    (State.reset.carriage 1).state ≠ .ordered := by decide +kernel

theorem test_meets_RefusalsAndBlocksWithdrawOrders_returns :
    ((orderedCut State.reset).vat 0).cutClose = none ∧
      120 ≤ (orderedCut State.reset).clock + (orderedCut State.reset).settings.urgencyMargin ∧
      (orderedCut State.reset).clock + (orderedCut State.reset).settings.urgencyMargin < 121 := by decide +kernel

theorem test_meets_StationMarksSetAndClear :
    (∀ t ∈ [State.reset, State.reset.modCarriage 0 (fun k => { k with blocked := true }),
        { State.reset with routinePause := true }, State.reset.modLine fun k => { k with mouldsLow := true }],
      Asks (asked .cut 0x24 [1] t) .cut false .carriageUnblock (frame 0x24 [1]) ∧
        Asks (asked .cut 0x25 [] t) .cut false .routinePause (frame 0x25 []) ∧
        Asks (asked .cut 0x26 [] t) .cut false .routineResume (frame 0x26 []) ∧
        Asks (asked .press 0x34 [] t) .press false .mouldsLow (frame 0x34 []) ∧
        Asks (asked .press 0x35 [] t) .press false .mouldsReady (frame 0x35 [])) := by decide +kernel

/-- Vats 1 and 12 wait in URGENT, and vat 1 in OPEN, with the Cut station PRESENT. -/
def waitingCuts : State :=
  heardFrom .cut { State.reset with urgent := [⟨0, none, none, 0⟩, ⟨11, none, none, 0⟩], openList := [⟨0, none, none, 0⟩] }

theorem test_meets_CutGrantsAreSafe :
    ({ State.reset with frozen := ⟨false, true, false⟩ } : State).frozen.carriages = true ∧
      State.reset.present .cut = false ∧ waitingCuts.cutLook.carriage 0 ≠ waitingCuts.carriage 0 ∧
      waitingCuts.cutLook.carriage 1 ≠ waitingCuts.carriage 1 ∧
      ((State.reset.modLink .cut fun u =>
        { u with queue := List.replicate 16 (.notice (.stationPresent .cut)) }).link .cut).hasRoom = false := by
  decide +kernel

theorem test_meets_CutGrantChoosesHeadMost :
    (waitingCuts.frozen.carriages = false ∧ waitingCuts.present .cut = true ∧ (waitingCuts.link .cut).hasRoom = true ∧
      (waitingCuts.chooseCut.map CutChoice.list = some .urgent) ∧
      (waitingCuts.chooseCut.map fun x => waitingCuts.carriageFor x.entry) = some (some 0)) ∧
    ({ waitingCuts with urgent := [] }.chooseCut.map CutChoice.list = some .openList) ∧
    ({ waitingCuts with urgent := [], routinePause := true }.chooseCut.isNone = true) ∧
    1 ≤ waitingCuts.tagCounter ∧ waitingCuts.tagCounter ≤ 255 := by decide +kernel

theorem test_meets_CutGrantChoosesHeadMost_grants :
    (State.reset.grantCut.isNone = true ∧ waitingCuts.grantCut.isSome = true ∧
      (waitingCuts.grantCut.bind State.grantCut).isSome = true ∧
      ({ waitingCuts with urgent := [⟨0, none, none, 0⟩], openList := [] }.grantCut.bind State.grantCut).isNone = true) ∧
    (waitingCuts.link .cut).hasRoom = true ∧
    waitingCuts.clock + waitingCuts.settings.cutStartLimit < Config.clockRange ∧
    (∀ c, (waitingCuts.carriage c).tag ≠ some waitingCuts.tagCounter) := by decide +kernel

/-! ### The Press link -/

theorem test_meets_DumpsStartAndEnd :
    (Asks (asked .press 0x30 [5, 0] (lined .ordered (lot5 .normal .ordered) State.reset)) .press false .dumpStarted
        (frame 0x30 [5, 0]) ∧ (frame 0x30 [5, 0]).pairAt 0 = 5 ∧
      (lined .ordered (lot5 .normal .ordered) State.reset).findLot 5 = some (lot5 .normal .ordered)) ∧
    (∀ x ∈ [LineState.running, .faulted], ∀ k ∈ [LotKind.normal, .waste],
      Asks (asked .press 0x31 [5, 0, 0x40, 0x9C] (lined x (lot5 k .running) State.reset)) .press false .dumpDone
        (frame 0x31 [5, 0, 0x40, 0x9C]) ∧ (frame 0x31 [5, 0, 0x40, 0x9C]).pairAt 2 = 40000 ∧
      (lined x (lot5 k .running) State.reset).findLot 5 = some (lot5 k .running)) := by decide +kernel

theorem test_meets_DumpsStartAndEnd_tags :
    (∀ t ∈ [State.reset, lined .running (lot5 .normal .pressing) State.reset],
      Asks (asked .press 0x30 [5, 0] t) .press false .dumpStarted (frame 0x30 [5, 0]) ∧
        Asks (asked .press 0x31 [5, 0, 0, 0] t) .press false .dumpDone (frame 0x31 [5, 0, 0, 0]) ∧
        Asks (asked .press 0x32 [5, 0] t) .press false .dumpRefused (frame 0x32 [5, 0])) ∧
    (fieldsInRange State.reset.settings .dumpStarted (frame 0x30 [5, 0]) = true ∧
      fieldsInRange State.reset.settings .dumpDone (frame 0x31 [5, 0, 0, 0]) = true) ∧ State.reset.findLot 5 = none ∧
    (lined .running (lot5 .normal .pressing) State.reset).findLot 5 = some (lot5 .normal .pressing) ∧
    (List.replicate 7 (⟨5, false⟩ : CompletedDump)).length < 8 ∧
    List.replicate 8 (⟨5, false⟩ : CompletedDump) = ⟨5, false⟩ :: List.replicate 7 ⟨5, false⟩ := by decide +kernel

theorem test_meets_LotsLeaveTheList :
    (∀ t ∈ [State.reset, lined .free (lot5 .normal .pressing) State.reset, lined .faulted (lot5 .normal .running) State.reset],
      Asks (asked .press 0x33 [5, 0] t) .press false .lotClosed (frame 0x33 [5, 0]) ∧
        Asks (asked .console 0x49 [5, 0] t) .console false .abandonLot (frame 0x49 [5, 0])) ∧
    (∀ p ∈ [[0, 0], [0, 0x10]], Asks (asked .press 0x33 p State.reset) .press false .lotClosed (frame 0x33 p) ∧
      Asks (asked .console 0x49 p State.reset) .console false .abandonLot (frame 0x49 p) ∧
      ((frame 0x33 p).pairAt 0 = 0 ∨ 4095 < (frame 0x33 p).pairAt 0)) ∧
    State.reset.findLot 5 = none ∧
    (lined .free (lot5 .normal .pressing) State.reset).findLot 5 = some (lot5 .normal .pressing) ∧
    (lined .faulted (lot5 .normal .running) State.reset).line.current = some 5 ∧
    Asks (asked .press 0x32 [5, 0] (lined .ordered (lot5 .late .ordered) State.reset)) .press false .dumpRefused
      (frame 0x32 [5, 0]) ∧ (lined .ordered (lot5 .late .ordered) State.reset).line.state = .ordered := by decide +kernel

theorem test_meets_LotsLeaveTheList_returns :
    (State.reset.vat 0).healMax = none ∧ ((healing false).vat 0).healMax = some 0 ∧ 0 ≤ (healing false).clock := by
  decide +kernel

/-- Vat 1 waits in ROUTINE, with the Press station PRESENT. -/
def waitingDump : State := heardFrom .press { State.reset with routine := [⟨0, some 0, .normal, false, 0⟩] }

theorem test_meets_LineGrantsAreSafe :
    waitingDump.lineLook.line ≠ waitingDump.line ∧ State.reset.present .press = false ∧
      (lined .running (lot5 .normal .running) State.reset).line.state ≠ .free ∧
      12 ≤ ({ State.reset with lots := List.replicate 12 (lot5 .normal .pressing) } : State).lots.length := by
  decide +kernel

/-- The Press station PRESENT, vat 1 held, and vats 1 and 2 waiting in a dump list. -/
def waitingDumps (late : Bool) (x : EntryKind) : State :=
  let l : List DumpEntry := [⟨0, none, x, false, 0⟩, ⟨1, none, x, false, 0⟩]
  (heardFrom .press { State.reset with lateList := if late then l else [], routine := if late then [] else l }).modVat 0
    fun r => { r with held := true }

theorem test_meets_LineGrantsAreSafe_grants :
    (∀ late ∈ [false, true], ∀ x ∈ [EntryKind.normal, .waste],
      (waitingDumps late x).line.state = .free ∧ (waitingDumps late x).frozen.line = false ∧
      ((waitingDumps late x).link .press).presence = some 0 ∧ ((waitingDumps late x).link .press).hasRoom = true ∧
      (waitingDumps late x).lots.length < 12 ∧
      (waitingDumps late x).clock + (waitingDumps late x).settings.dumpStartLimit < Config.clockRange ∧
      ((waitingDumps late x).vat 0).held = true ∧ ((waitingDumps late x).vat 1).held = false ∧
      (waitingDumps late x).line.mouldsLow = false) ∧
    (waitingDumps true .normal).lateList = [⟨0, none, .normal, false, 0⟩] ++ ⟨1, none, .normal, false, 0⟩ :: [] ∧
    (waitingDumps false .waste).routine = [⟨0, none, .waste, false, 0⟩] ++ ⟨1, none, .waste, false, 0⟩ :: [] ∧
    (waitingDumps false .waste).lateList = [] ∧
    1 ≤ (waitingDumps true .normal).line.lotCounter ∧ (waitingDumps true .normal).line.lotCounter ≤ 4095 := by
  decide +kernel

/-! ### The Console link -/

theorem test_meets_HoldReleaseAndFreeze :
    (∀ t ∈ [State.reset, State.reset.modVat 23 fun r => { r with held := true }],
      Asks (asked .console 0x42 [24] t) .console false .hold (frame 0x42 [24]) ∧
        Asks (asked .console 0x43 [24] t) .console false .release (frame 0x43 [24])) ∧
    (∀ c ∈ [(1 : Byte), 2, 3], ∀ on ∈ [false, true],
      Asks (asked .console 0x4A [c, Byte.ofNat on.toNat] State.reset) .console false .freeze
        (frame 0x4A [c, Byte.ofNat on.toNat]) ∧ (frame 0x4A [c, Byte.ofNat on.toNat]).byteAt 1 = on.toNat) := by
  decide +kernel

/-- Vat 1 with an advance that waits for STEP. -/
def pendingStep (x : StepPending) : State := State.reset.modVat 0 fun r => { r with stepPending := x, stepMode := true }

theorem test_meets_StepAdvancesAndEntriesArePlaced :
    (∀ x ∈ [StepPending.nothing, .cutOpen, .healMin],
      Asks (asked .console 0x44 [1, 1] (pendingStep x)) .console false .stepMode (frame 0x44 [1, 1]) ∧
        Asks (asked .console 0x44 [1, 0] (pendingStep x)) .console false .stepMode (frame 0x44 [1, 0]) ∧
        Asks (asked .console 0x45 [1] (pendingStep x)) .console false .step (frame 0x45 [1]) ∧
        ((pendingStep x).vat 0).stepPending = x) ∧
    (State.reset.vat 0).cutClose = none ∧ 120 ≤ State.reset.clock + State.reset.settings.urgencyMargin ∧
    State.reset.clock + State.reset.settings.urgencyMargin < 121 := by decide +kernel

theorem test_meets_DumpEarlyQueuesVat :
    (∀ t ∈ [State.reset, staged 0 .working State.reset, staged 0 .working (pendingStep .healMin),
        staged 0 .working { State.reset with window := [⟨5, true⟩] }],
      Asks (asked .console 0x46 [1] t) .console false .dumpEarly (frame 0x46 [1]) ∧ t.slotMap[(0 : Slot)] = some 0) ∧
    (staged 0 .working State.reset).allowanceInUse = false ∧
    (staged 0 .working { State.reset with window := [⟨5, true⟩] }).allowanceInUse = true := by decide +kernel

theorem test_meets_OversetVatsAreReleasedOrDiscarded :
    (∀ t ∈ [State.reset, staged 0 .overset State.reset, staged 0 .cutWindow State.reset, cutting .faulted State.reset,
        cutting .cutting State.reset, { State.reset with slotMap := State.reset.slotMap.set 0 none }],
      Asks (asked .console 0x47 [1] t) .console false .releaseOverset (frame 0x47 [1]) ∧
        Asks (asked .console 0x48 [1] t) .console false .discard (frame 0x48 [1])) ∧
    ((cutting .faulted State.reset).vat 0).stage = .cutting ∧ ((cutting .faulted State.reset).vat 0).carriage = some 0 ∧
    ((cutting .faulted State.reset).carriage 0).state = .faulted := by decide +kernel

/-- Bank 4 FAULTED, with PROVED at a level. -/
def faulted4 (level : Bool) : State :=
  { (State.reset.modBank 3 fun k => k.faulted .prime) with proved := State.reset.proved.set 3 level }

theorem test_meets_ClearBankPrimes :
    (∀ t ∈ [State.reset, faulted4 true, faulted4 false],
      Asks (asked .console 0x4B [1, 4] t) .console false .clearBank (frame 0x4B [1, 4])) ∧
    bankOf? 4 = some 3 ∧ ((faulted4 false).bank 3).state = .faulted ∧ (faulted4 false).proved[(3 : Bank)] = false ∧
    (State.reset.bank 3).state ≠ .faulted := by decide +kernel

theorem test_meets_ClearBankPrimes_sound : ((faulted4 false).bank 3).Sound := by
  have h : (faulted4 false).bank 3 = (BankRecord.reset 8).faulted .prime := by decide +kernel
  rw [h]
  constructor <;> simp [BankRecord.reset, BankRecord.faulted, BankRecord.onPath]

/-- Carriage 2 and the line FAULTED, holding nothing. -/
def faultedArbiters : State :=
  (State.reset.modCarriage 1 fun k => { k with state := .faulted, faultCause := some .strikes }).modLine fun k =>
    { k with state := .faulted, faultCause := some .duration }

theorem test_meets_ClearFreesCarriageAndLine :
    (∀ t ∈ [State.reset, faultedArbiters],
      Asks (asked .console 0x4B [2, 2] t) .console false .clearCarriage (frame 0x4B [2, 2]) ∧
        Asks (asked .console 0x4B [2, 3] t) .console false .clearCarriage (frame 0x4B [2, 3]) ∧
        Asks (asked .console 0x4B [3, 0] t) .console false .clearLine (frame 0x4B [3, 0])) ∧
    carriageOf? 2 = some 1 ∧ carriageOf? 3 = none ∧ (faultedArbiters.carriage 1).state = .faulted ∧
    (faultedArbiters.carriage 1).vat = none ∧ faultedArbiters.line.state = .faulted ∧
    faultedArbiters.line.current = none := by decide +kernel

theorem test_meets_GetReadsTheStore :
    (∀ p ∈ [[80], [81]], Asks (asked .console 0x41 p State.reset) .console false .get (frame 0x41 p)) ∧
      itemOf? 80 = some .presenceTimeout ∧ itemOf? 81 = none := by decide +kernel

theorem test_meets_SetWritesTheStoreAndActs :
    (∀ p ∈ [[44, 9, 0], [44, 8, 0], [44, 61, 0], [47, 120, 0], [40, 7, 0]],
      Asks (asked .console 0x50 p State.reset) .console true .set (frame 0x50 p)) ∧
    (State.reset.settings.allows .travelLimit 61 = false ∧ State.reset.settings.allows .travelLimit 60 = true ∧
      State.reset.settings.allows (.zoneEnd 0) 7 = true ∧ State.reset.busy (.zoneEnd 0) = true ∧
      State.reset.busy .travelLimit = false ∧ State.reset.settings.get .travelLimit = 8 ∧
      State.reset.settings.get .rinseInterval = 120) ∧
    (∀ e ∈ State.reset.openList, State.reset.urgencyReached e = false) ∧
    (∃ e ∈ ({ State.reset with openList := [⟨0, none, some 120, 0⟩] } : State).openList,
      ({ State.reset with openList := [⟨0, none, some 120, 0⟩] } : State).urgencyReached e = true) := by decide +kernel

theorem test_meets_SetWritesTheStoreAndActs_expiries :
    let expired := (feeding 0 none State.reset).modBank 0 fun k => { k with pathOpen := some 2400 }
    let absent := State.reset.modLink .cut fun u => { u with presence := some 10 }
    (∀ b : Bank, expired.openPathDue b = decide (b = 0)) ∧ (∀ b : Bank, State.reset.openPathDue b = false) ∧
    (∀ l ∈ allLinks, absent.presenceDue l = decide (l = .cut)) ∧ ∀ l ∈ allLinks, State.reset.presenceDue l = false := by
  decide +kernel

/-- Slot 1 unmapped. -/
def unmapped1 : State :=
  { State.reset.modVat 0 (fun r => { r with slot := none }) with slotMap := State.reset.slotMap.set 0 none }

theorem test_meets_MapAndService :
    (∀ p ∈ [[1, 1], [2, 1], [32, 1]], ∀ t ∈ [State.reset, unmapped1, staged 0 .charged unmapped1, staged 1 .charged unmapped1],
      Asks (asked .console 0x51 p t) .console true .mapSlot (frame 0x51 p)) ∧
    (∀ t ∈ [State.reset, unmapped1, staged 0 .charged State.reset],
      Asks (asked .console 0x51 [1, 0] t) .console true .unmapSlot (frame 0x51 [1, 0])) ∧
    (∀ p ∈ [[1, 0], [1, 1]], ∀ t ∈ [State.reset, staged 0 .charged State.reset],
      Asks (asked .console 0x52 p t) .console true .service (frame 0x52 p)) ∧
    (∀ n : Slot, unmapped1.slotMap[n] ≠ some 0) ∧ unmapped1.slotMap[(1 : Slot)] = some 1 ∧
    unmapped1.slotMap[(31 : Slot)] = none ∧ (unmapped1.vat 0).stage = .vacant := by decide +kernel

/-- A DECLARE of slot 1, class 0, batch 9, 1,000 L, in a stage. -/
def declare1 (stage : Byte) : List Byte := [1, 0, 9, 0, 0xE8, 3, stage]

theorem test_meets_DeclareAndRestart :
    (∀ x ∈ [(0 : Byte), 3, 7, 8], ∀ t ∈ [State.reset, unmapped1, staged 0 .charged State.reset,
        State.reset.modVat 0 fun r => { r with service := .outOfUse }],
      Asks (asked .console 0x53 (declare1 x) t) .console true .declare (frame 0x53 (declare1 x))) ∧
    Stage.ofCode 3 = some .charged ∧ Stage.ofCode 7 = some .working ∧ Stage.ofCode 8 = some .dumpQueued ∧
    (frame 0x53 (declare1 3)).pairAt 4 = 1000 ∧ 0 + 2700 < Config.clockRange ∧
    Asks (asked .console 0x54 [] State.reset) .console true .restart (frame 0x54 []) := by decide +kernel

/-! ### Deadlines -/

theorem test_meets_CutDeadlines :
    let setting (m : Bool) := (staged 0 .setting State.reset).modVat 0 fun r =>
      { r with cutOpen := some 0, cutClose := some 0, stepMode := m }
    ((setting false).inReset = false ∧ ((setting false).vat 0).stage = .setting ∧
      ((setting false).vat 0).stepPending = .nothing ∧ ((setting false).vat 0).cutOpen = some 0 ∧
      ((setting false).vat 0).cutClose = some 0 ∧ ((setting true).vat 0).stepMode = true) ∧
    (State.reset.vat 0).stage ≠ .setting ∧ (State.reset.vat 0).stage ≠ .cutWindow ∧
    (({ State.reset with openList := [⟨1, none, none, 0⟩, ⟨0, none, some 120, 0⟩] } : State).openList =
      [⟨1, none, none, 0⟩] ++ ⟨0, none, some 120, 0⟩ :: [] ∧ 120 ≤ State.reset.clock + State.reset.settings.urgencyMargin) ∧
    (((orderedCut State.reset).modVat 0 fun r => { r with cutClose := some 0 }).vat 0).carriage = some 0 ∧
    (((orderedCut State.reset).modVat 0 fun r => { r with cutClose := some 0 }).carriage 0).tag = some 7 := by
  decide +kernel

theorem test_meets_HealDeadlines :
    let later : State := { healing false with clock := 1 }
    let queued : State := { (staged 0 .dumpQueued (healing false)) with
      routine := [⟨0, none, .waste, false, 0⟩, ⟨0, none, .normal, false, 0⟩] }
    ((healing false).inReset = false ∧ ((healing false).vat 0).stage = .working ∧
      ((healing false).vat 0).healMin = some (healing false).clock ∧
      ((healing false).vat 0).healMax = some (healing false).clock ∧ ((healing false).vat 0).healMaxFirst = false ∧
      ((healing false).vat 0).stepMode = false ∧ ((healing true).vat 0).stepMode = true ∧
      ((healing false).vat 0).stepPending = .nothing) ∧
    ((later.vat 0).healMin = some 0 ∧ 0 < later.clock ∧ (later.vat 0).healMin ≠ some later.clock) ∧
    (queued.routine = [⟨0, none, .waste, false, 0⟩] ++ ⟨0, none, .normal, false, 0⟩ :: [] ∧
      (queued.vat 0).healMax = some 0 ∧ (queued.vat 0).stage = .dumpQueued) ∧ (State.reset.vat 0).healMax = none ∧
    (State.reset.vat 0).stage ≠ .working := by decide +kernel

/-! ### Banks -/

theorem test_meets_OutputsFollowState : (filling.bank 0).Sound ∧ filling.inReset = false ∧
    State.reset.holdReset.inReset = true := ⟨filling_banks 0, by decide +kernel, by decide +kernel⟩

/-- PROVED low on bank 1. -/
def low (s : State) : State := { s with proved := s.proved.set 0 false }

/-- Bank 1 OPENING for the fill of vat 1. -/
def opening (cancel : Bool) : State :=
  (banked 0 .opening State.reset).modBank 0 fun k =>
    { k with path := some 0, current := some (fill1 .openingPath cancel), travel := some ⟨8, 8⟩ }

/-- Bank 1 CLOSING, in a phase, for a cause. -/
def closing (x : ClosePhase) (cause : CloseCause) : State :=
  (banked 0 .closing State.reset).modBank 0 fun k =>
    { k with closePhase := some x, closeCause := some cause, drain := some ⟨45, 45⟩ }

theorem test_meets_ProvedChanges :
    (∀ t ∈ [opening false, opening true, banked 0 .ready State.reset, closing .drain .miss, banked 0 .faulted State.reset],
      (low t).inReset = false ∧ (low t).proved[(0 : Bank)] = false) ∧
    ((low (opening true)).bank 0).current = some (fill1 .openingPath true) ∧
    (∀ t ∈ [closing .travel .limit, feeding 0 none State.reset, State.reset, banked 0 .faulted State.reset],
      t.inReset = false ∧ t.proved[(0 : Bank)] = true) ∧
    ((closing .travel .limit).bank 0).closePhase = some .travel ∧ (State.reset.bank 0).startPhase = some .prove ∧
    State.reset.settings.drainInterval ≠ 0 ∧
    ({ closing .travel .limit with settings := { Settings.default with drainInterval := 0 } } : State).settings.drainInterval =
      0 := by decide +kernel

theorem test_meets_FlowPulse :
    ((banked 0 .faulted State.reset).bank 0).state = .faulted ∧
    ((State.reset.bank 0).state ≠ .faulted ∧ (State.reset.bank 0).current = none) ∧
    (((feeding 1 (some (wash2 .running)) State.reset).bank 0).current = some (wash2 .running) ∧
      (wash2 .running).entry.target ≤ (wash2 .running).entry.volume + State.reset.settings.litresPerPulse) ∧
    ((feeding 0 (some (fill1 .running false)) State.reset).bank 0).state ≠ .faulted ∧
    (fill1 .running false).entry.target ≤ (fill1 .running false).entry.volume + State.reset.settings.litresPerPulse ∧
    ¬ (fill1 .running false).entry.target ≤ (fill1 .running false).entry.volume + 1 := by decide +kernel

theorem test_meets_BankFault :
    ((opening false).bank 0).current = some (fill1 .openingPath false) ∧
      ((opening true).bank 0).current = some (fill1 .openingPath true) ∧ (State.reset.bank 0).current = none ∧
      ((opening true).vat 0).filled = 0 ∧ 0 < (filling.vat 0).filled := by decide +kernel

theorem test_meets_PathTimers :
    ((8 : Nat) ≤ 8 ∧ ((opening false).bank 0).travel = some ⟨8, 8⟩ ∧
      ((State.reset.modBank 0 fun k => { k with travel := some ⟨8, 8⟩ }).bank 0).state = .start) ∧
    (∀ x ∈ [CloseCause.miss, .limit, .rinse], ((closing .drain x).bank 0).drain = some ⟨45, 45⟩ ∧
      ((closing .drain x).bank 0).closeCause = some x) ∧
    (∀ c ∈ [fill1 .running false, wash2 .running, wash2 .stalled],
      (((feeding 0 (some c) State.reset).modBank 0 fun k => { k with noFlow := some ⟨30, 30⟩ }).bank 0).noFlow =
          some ⟨30, 30⟩ ∧ ((feeding 0 (some c) State.reset).bank 0).current = some c) ∧
    (State.reset.settings.pathOpenLimit * 60 ≤ 2400 ∧
      (((feeding 0 none State.reset).modBank 0 fun k => { k with pathOpen := some 2400 }).bank 0).state = .opened) := by
  decide +kernel

theorem test_meets_PathTimers_limit :
    let s := (closing .travel .miss).modBank 0 fun k => { k with stoppedPath := some ⟨0, 2400⟩ }
    s.inReset = false ∧ (s.bank 0).state = .closing ∧ (s.bank 0).closePhase = some .travel ∧
      (s.bank 0).closeCause = some .miss ∧ (s.bank 0).stoppedPath = some ⟨0, 2400⟩ ∧ 0 = s.clock ∧
      s.settings.pathOpenLimit * 60 ≤ 2400 := by decide +kernel

theorem test_meets_HygieneTimers :
    (∀ n ∈ [0, 7], ((State.reset.modBank 0 fun k =>
        { k with startPhase := some .flush, flush := some ⟨30, 30⟩, flushesDone := some n }).bank 0).flush = some ⟨30, 30⟩) ∧
    (0 + 1 < State.reset.settings.flushCount ∧ State.reset.settings.flushCount ≤ 7 + 1) ∧
    (((banked 0 .rinsing State.reset).modBank 0 fun k => { k with rinse := some ⟨180, 180⟩ }).bank 0).rinse =
      some ⟨180, 180⟩ ∧
    (((banked 0 .parked State.reset).modBank 0 fun k => { k with parkPulse := some ⟨45, 45⟩ }).bank 0).parkPulse =
      some ⟨45, 45⟩ ∧
    (State.reset.settings.parkDelay ≠ 0 ∧ State.reset.settings.parkDelay * 60 ≤ 1200 ∧
      (((banked 0 .ready State.reset).modBank 0 fun k => { k with park := some 1200 }).bank 0).park = some 1200) ∧
    (State.reset.settings.rinseInterval ≠ 0 ∧ State.reset.settings.rinseInterval * 60 ≤ 7200 ∧
      ∀ x ∈ [BankState.ready, .opened, .opening, .start],
        ((banked 0 x State.reset).bank 0).state = x ∧ x ≠ .parked ∧ x ≠ .faulted) := by decide +kernel

theorem test_meets_HygieneTimers_rinse :
    (State.reset.bank 0).rinsePending = false ∧
      ((State.reset.modBank 0 fun k => { k with rinsePending := true }).bank 0).rinsePending = true := by decide +kernel

/-! ### The arbiters' timers -/

theorem test_meets_ArbiterTimers :
    (((orderedCut State.reset).carriage 0).start = some ⟨90, 90⟩ ∧ ((orderedCut State.reset).carriage 0).vat = some 0 ∧
      0 + 1 < State.reset.settings.strikes ∧ State.reset.settings.strikes ≤ 2 + 1) ∧
    (((cutting .cutting State.reset).carriage 0).slice = some ⟨900, 900⟩ ∧
      ((cutting .cutting State.reset).carriage 0).vat = some 0) ∧
    ((lined .ordered (lot5 .normal .ordered) State.reset).line.start = some ⟨60, 60⟩ ∧
      (lined .ordered (lot5 .normal .ordered) State.reset).currentLot = some (lot5 .normal .ordered)) ∧
    ((lined .running (lot5 .normal .running) State.reset).line.duration = some ⟨1200, 1200⟩ ∧
      (lined .running (lot5 .normal .running) State.reset).findLot 5 = some (lot5 .normal .running)) := by decide +kernel

end Sys2Proof.Tests
end

