-- ==== Sys2Proof/Proofs/Steps.lean ====
section
/-! PROOFS. What one step can be: a command, a tick or nothing; and a command is the taking of a request of some row, or one
of the other events. Every invariant is proved along these cases. -/

namespace Sys2Proof.Machine

/-! ### The owner of each row -/

/-- What the owner of a row does with a request that has passed its first checks. -/
def ownerOf : Request → Asking → State → State
  | .unknownKindRequest => fun a t => t.refuse a .unknown
  | .status => State.applyStatus
  | .fillOrder => State.applyFillOrder
  | .fillCancel => State.applyFillCancel
  | .fillResume => State.applyFillResume
  | .setSlot => State.applySetSlot
  | .vatQuery => State.applyVatQuery
  | .cutStarted => State.applyCutStarted
  | .cutDone => State.applyCutDone
  | .cutRefused => State.applyCutRefused
  | .carriageBlock => State.applyBlock
  | .carriageUnblock => State.applyUnblock
  | .routinePause => fun a t => { t.done a with routinePause := true }
  | .routineResume => State.applyRoutineResume
  | .dumpStarted => State.applyDumpStarted
  | .dumpDone => State.applyDumpDone
  | .dumpRefused => State.applyDumpRefused
  | .lotClosed => State.applyLotClosed
  | .mouldsLow => fun a t => (t.done a).modLine fun k => { k with mouldsLow := true }
  | .mouldsReady => State.applyMouldsReady
  | .queryVat => State.applyQuery 1 vatOf? State.vatReport
  | .queryBank => State.applyQuery 2 bankOf? State.bankReport
  | .queryCarriage => State.applyQuery 3 carriageOf? State.carriageReport
  | .queryCutLists => State.applyQuery 6 zeroOf? fun t _ => t.cutListsReport
  | .queryLine => State.applyQuery 4 zeroOf? fun t _ => t.lineReport
  | .queryLotList => State.applyQuery 5 zeroOf? fun t _ => t.lotListReport
  | .queryDumpLists => State.applyQuery 7 zeroOf? fun t _ => t.dumpListsReport
  | .queryEarlyWindow => State.applyQuery 8 zeroOf? fun t _ => t.windowReport
  | .get => State.applyGet
  | .hold => State.applyHold
  | .release => State.applyRelease
  | .stepMode => State.applyStepMode
  | .step => State.applyStep
  | .dumpEarly => State.applyDumpEarly
  | .releaseOverset => State.applyReleaseOverset
  | .discard => State.applyDiscard
  | .abandonLot => State.applyAbandonLot
  | .freeze => State.applyFreeze
  | .clearBank => State.applyClearBank
  | .clearCarriage => State.applyClearCarriage
  | .clearLine => State.applyClearLine
  | .set => State.applySet
  | .mapSlot => State.applyMapSlot
  | .unmapSlot => State.applyUnmapSlot
  | .service => State.applyService
  | .declare => State.applyDeclare
  | .restart => fun a t => { t.done a with restartAccepted := true }

/-- Each of the 47 request rows takes a frame of its row and gives it to its owner. -/
theorem exec_ofRequest (r : Request) (l : Link) (edit : Bool) (s : State) :
    exec (.ofRequest l edit r) s = .next (State.takeRequest r l edit (ownerOf r) s) := by cases r <;> rfl

/-- A taking does not come about, or is refused by a first check, or gives the request to its owner. -/
theorem State.takeRequest_cases (r : Request) (l : Link) (edit : Bool) (own : Asking → State → State) (s : State) :
    State.takeRequest r l edit own s = s ∨
    (∃ f x, State.takeRequest r l edit own s = s.answered l edit f x []) ∨
    ∃ f, Asks s l edit r f ∧ State.takeRequest r l edit own s = own ⟨l, f⟩ (s.taken l edit) := by
  by_cases h : ∃ f, s.takable l = some f ∧ f.request = r
  · obtain ⟨f, hf, hr⟩ := h
    cases hc : firstChecks r ⟨l, f⟩ edit with
    | some x => exact .inr (.inl ⟨f, x, State.takeRequest_of_refused own hf hr hc⟩)
    | none => exact .inr (.inr ⟨f, ⟨hf, hr, hc⟩, State.takeRequest_of_asks own ⟨hf, hr, hc⟩⟩)
  · exact .inl (State.takeRequest_of_none own fun f hf hr => h ⟨f, hf, hr⟩)

/-! ### The field checks keep what every reply and every accepted request keep -/

section Checks

variable {P : State → Prop} {s : State} {a : Asking}

theorem State.inRange_keeps {α : Type} {field : Option α} {rest : α → State} (hr : ∀ x, P (s.refuse a x))
    (h : ∀ x, field = some x → P (rest x)) : P (s.inRange a field rest) := by
  cases field with
  | none => exact hr _
  | some x => exact h x rfl

theorem State.resolved_keeps {slot : Slot} {rest : Vat → State} (hr : ∀ x, P (s.refuse a x))
    (h : ∀ v, s.slotMap[slot] = some v → P (rest v)) : P (s.resolved a slot rest) := by
  cases hv : s.slotMap[slot] with
  | none => rw [State.resolved_none a rest hv]; exact hr _
  | some v => rw [State.resolved_some a rest hv]; exact h v hv

theorem State.onSlot_keeps {rest : Vat → State} (hr : ∀ x, P (s.refuse a x))
    (h : ∀ (slot : Slot) (v : Vat), s.slotMap[slot] = some v → P (rest v)) : P (s.onSlot a rest) :=
  State.inRange_keeps hr fun slot _ => State.resolved_keeps hr fun v hv => h slot v hv

theorem State.onVat_keeps {rest : Vat → State} (hr : ∀ x, P (s.refuse a x)) (h : ∀ v, P (rest v)) :
    P (s.onVat a rest) := State.inRange_keeps hr fun v _ => h v

theorem State.onTag_keeps {rest : Carriage → State} (hr : ∀ x, P (s.refuse a x))
    (h : ∀ (t : Nat) (c : Carriage), s.standing? t = some c → P (rest c)) : P (s.onTag a rest) := by
  refine State.inRange_keeps hr fun t _ => ?_
  split
  · rename_i c hc
    exact h t c hc
  · exact hr _

theorem State.onLot_keeps {field : Option Nat} {rest : Lot → State} (hr : ∀ x, P (s.refuse a x))
    (h : ∀ (n : Nat) (x : Lot), s.findLot n = some x → P (rest x)) : P (s.onLot a field rest) := by
  refine State.inRange_keeps hr fun n _ => ?_
  split
  · rename_i x hx
    exact h n x hx
  · exact hr _

end Checks

/-! ### What an accepted request does -/

/-- What a request can do beyond its reply, from the state `s` that holds the reply, with what its owner has checked: nothing,
as a refusal or a query, or the effect of one accepted request. -/
inductive Effect (s : State) : State → Prop
  | nothing : Effect s s
  | marksOff (l : Link) : Effect s (s.modLink l fun u => { u with overrun := false, frameError := false })
  | orderFill (o : FillOrder) (v : Vat) (mapped : s.slotMap[o.slot] = some v) (service : (s.vat v).service ≠ .outOfUse)
      (free : (s.vat v).held = false) (vacant : (s.vat v).stage = .vacant) :
      Effect s ((s.modVat v fun r => r.ordered o s.settings.classes[o.recipe]).joinTransfer (s.bankOf v)
        { vat := v, kind := .fill, target := o.target, volume := 0, resumed := false })
  | cancelQueued (v : Vat) (queued : (s.vat v).stage = .fillQueued) : Effect s (s.cancelQueued (s.bankOf v) v)
  | cancelListed (v : Vat) (filling : (s.vat v).stage = .filling)
      (listed : ∀ c, (s.bank (s.bankOf v)).current = some c → c.entry.vat ≠ v) :
      Effect s (s.cancelListed (s.bankOf v) v)
  | cancelCurrent (c : Current) (filling : (s.vat c.entry.vat).stage = .filling)
      (current : (s.bank (s.bankOf c.entry.vat)).current = some c) :
      Effect s (s.cancelCurrent (s.bankOf c.entry.vat) c)
  | resumeFill (c : Current) (filling : (s.vat c.entry.vat).stage = .filling)
      (up : (s.bank (s.bankOf c.entry.vat)).state ≠ .faulted)
      (current : (s.bank (s.bankOf c.entry.vat)).current = some c) (stalled : c.phase = .stalled) :
      Effect s (s.resumeFill (s.bankOf c.entry.vat) c)
  | setVat (v : Vat) (charged : (s.vat v).stage = .charged) : Effect s (s.modVat v fun r => r.setAt s.clock)
  | startCut (c : Carriage) (ordered : (s.carriage c).state = .ordered) : Effect s (s.startCut c)
  | endCut (c : Carriage) (cutting : (s.carriage c).state = .cutting) :
      Effect s (((s.endCut c).cutLook).healMinAfterCut (s.carriage c).vat)
  | endCutLate (c : Carriage) (faulted : (s.carriage c).state = .faulted) :
      Effect s ((s.endCut c).healMinAfterCut (s.carriage c).vat)
  | refuseCut (c : Carriage) (ordered : (s.carriage c).state = .ordered) :
      Effect s (s.withdrawOrder c .refused).cutLook
  | block (c : Carriage) (idle : (s.carriage c).state ≠ .ordered) :
      Effect s (s.modCarriage c fun k => { k with blocked := true })
  | blockOrdered (c : Carriage) (ordered : (s.carriage c).state = .ordered) :
      Effect s ((s.modCarriage c fun k => { k with blocked := true }).withdrawOrder c .blocked).cutLook
  | unblock (c : Carriage) (blocked : (s.carriage c).blocked = true) :
      Effect s (s.modCarriage c fun k => { k with blocked := false }).cutLook
  | pause : Effect s { s with routinePause := true }
  | resume (paused : s.routinePause = true) : Effect s (State.cutLook { s with routinePause := false })
  | startDump (n : Nat) (x : Lot) (found : s.findLot n = some x) (lot : x.state = .ordered)
      (line : s.line.state = .ordered) : Effect s (s.startDump x)
  | endDump (n : Nat) (x : Lot) (received : Nat) (found : s.findLot n = some x) (lot : x.state = .running)
      (line : s.line.state = .running ∨ s.line.state = .faulted) : Effect s (s.endDump x received)
  | refuseDump (n : Nat) (x : Lot) (found : s.findLot n = some x) (lot : x.state = .ordered)
      (line : s.line.state = .ordered) : Effect s (s.withdrawDump x .refused).lineLook
  | closeLot (n : Nat) (x : Lot) (found : s.findLot n = some x) (lot : x.state = .pressing) :
      Effect s (s.removeLot x.number).lineLook
  | mouldsLow : Effect s (s.modLine fun k => { k with mouldsLow := true })
  | mouldsReady (low : s.line.mouldsLow = true) : Effect s (s.modLine fun k => { k with mouldsLow := false }).lineLook
  | hold (v : Vat) (free : s.isHeld v = false) :
      Effect s ((s.modVat v fun r => { r with held := true }).parkLooks (s.banksListing v))
  | release (v : Vat) (held : s.isHeld v = true) :
      Effect s ((s.modVat v fun r => { r with held := false }).bankLooks (fun e => decide (e.vat = v))
        ((s.modVat v fun r => { r with held := false }).banksListing v)).cutLook.lineLook
  | stepModeOn (v : Vat) : Effect s (s.modVat v fun r => { r with stepMode := true })
  | stepModeOff (v : Vat) : Effect s ((s.modVat v fun r => { r with stepMode := false }).advance v)
  | step (v : Vat) (waits : (s.vat v).stepPending ≠ .nothing) : Effect s (s.advance v)
  | dumpEarly (v : Vat) (working : (s.vat v).stage = .working) (none : (s.vat v).stepPending = .nothing)
      (free : s.allowanceInUse = false) :
      Effect s ((s.modVat v fun r => { r with early := true }).queueDump v .normal true).lineLook
  | releaseOverset (v : Vat) (overset : (s.vat v).stage = .overset) :
      Effect s ((s.modVat v fun r => { r with cutClose := none }).enterCutWindow v).cutLook
  | discard (v : Vat) (discardable : s.discardable v = true) : Effect s (s.discard v)
  | abandon (n : Nat) (x : Lot) (found : s.findLot n = some x) (line : s.line.state = .faulted)
      (current : s.line.current = some x.number) (lot : x.state = .running) : Effect s (s.abandon x)
  | freezeBanks (on : Bool) : Effect s (s.freezeBanks on)
  | freezeCarriages (on : Bool) : Effect s (s.freezeCarriages on)
  | freezeLine (on : Bool) : Effect s (s.freezeLine on)
  | clearBank (b : Bank) (faulted : (s.bank b).state = .faulted) (closed : s.proved[b] = false) :
      Effect s (s.enterPriming b)
  | clearCarriage (c : Carriage) (faulted : (s.carriage c).state = .faulted) (empty : (s.carriage c).vat = none) :
      Effect s (s.modCarriage c fun k =>
        { k with state := .free, faultCause := none, missed := 0, freeSince := s.clock }).cutLook
  | clearLine (faulted : s.line.state = .faulted) (empty : s.line.current = none) :
      Effect s (s.modLine fun k => { k.freed s.clock with faultCause := none }).lineLook
  | setItem (i : Item) (v : Nat) (allowed : s.settings.allows i v = true) (idle : s.busy i = false) :
      Effect s (s.setItem i v)
  | mapSlot (slot : Slot) (v : Vat) (unmapped : s.mapped v = false) (old : s.vacantOr s.slotMap[slot] = true)
      (vacant : s.vacantOr (some v) = true) : Effect s (s.remap slot (some v))
  | unmapSlot (slot : Slot) (old : s.vacantOr s.slotMap[slot] = true) : Effect s (s.remap slot none)
  | serviceIn (v : Vat) : Effect s (s.modVat v fun r => { r with service := .inUse })
  | serviceOut (v : Vat) (vacant : (s.vat v).stage = .vacant) :
      Effect s (s.modVat v fun r => { r with service := .outOfUse })
  | declare (d : Declaration) (v : Vat) (mapped : s.slotMap[d.slot] = some v)
      (service : (s.vat v).service ≠ .outOfUse) (vacant : (s.vat v).stage = .vacant)
      (target : d.stage = .charged ∨ d.stage = .working ∨ d.stage = .dumpQueued) : Effect s (s.declareVat d v)
  | restart : Effect s { s with restartAccepted := true }

/-- `t` is `s` with a reply queued to a request, and then the request's effect. -/
def Replied (a : Asking) (s t : State) : Prop := ∃ x d, Effect (s.answer a x d) t

section Owners

variable (a : Asking) (s : State)

/-- A reply alone. -/
theorem Replied.answer (x : Result) (d : List Field) : Replied a s (s.answer a x d) := ⟨x, d, .nothing⟩

theorem Replied.refuse (x : Result) : Replied a s (s.refuse a x) := .answer a s x []

theorem Replied.applyQuery {α : Type} (n : Nat) (read : Nat → Option α) (report : State → α → Report) :
    Replied a s (State.applyQuery n read report a s) := by
  unfold State.applyQuery
  split
  · exact .refuse a s _
  · split
    · exact .refuse a s _
    · exact .answer a s _ _

/-! #### The requests of the Fill link -/

theorem Replied.applyFillOrder : Replied a s (State.applyFillOrder a s) := by
  refine State.inRange_keeps (.refuse a s) fun o _ => State.resolved_keeps (.refuse a s) fun v hv => ?_
  dsimp only
  split_ifs with hs hh hst
  · exact .refuse a s _
  · exact .refuse a s _
  · exact .refuse a s _
  · exact ⟨_, _, .orderFill o v hv hs (Bool.eq_false_of_not_eq_true hh) (not_not.mp hst)⟩

theorem Replied.applyFillCancel : Replied a s (State.applyFillCancel a s) := by
  refine State.onSlot_keeps (.refuse a s) fun _ v _ => ?_
  dsimp only
  split_ifs with hq hf
  · exact ⟨_, _, .cancelQueued v hq⟩
  · split
    · rename_i c hc
      split_ifs with hv
      · subst hv
        exact ⟨_, _, .cancelCurrent c hf hc⟩
      · exact ⟨_, _, .cancelListed v hf fun c' hc' => by cases hc.symm.trans hc'; exact hv⟩
    · rename_i hc
      exact ⟨_, _, .cancelListed v hf fun c' hc' => by cases hc.symm.trans hc'⟩
  · exact .refuse a s _

theorem Replied.applyFillResume : Replied a s (State.applyFillResume a s) := by
  refine State.onSlot_keeps (.refuse a s) fun _ v _ => ?_
  split_ifs with hh hf
  · exact .refuse a s _
  · exact .refuse a s _
  · unfold State.bankResume
    dsimp only
    split_ifs with hb
    · exact .refuse a s _
    · split
      · rename_i c hc
        split_ifs with hv
        · obtain ⟨rfl, hp⟩ := hv
          exact ⟨_, _, .resumeFill c (not_not.mp hf) hb hc hp⟩
        · exact .refuse a s _
      · exact .refuse a s _

theorem Replied.applySetSlot : Replied a s (State.applySetSlot a s) := by
  refine State.onSlot_keeps (.refuse a s) fun _ v _ => ?_
  split_ifs with h
  · exact .refuse a s _
  · exact ⟨_, _, .setVat v (not_not.mp h)⟩

/-! #### The requests of the Cut link -/

theorem Replied.applyCutStarted : Replied a s (State.applyCutStarted a s) := by
  refine State.onTag_keeps (.refuse a s) fun _ c _ => ?_
  split_ifs with h
  · exact ⟨_, _, .startCut c h⟩
  · exact .refuse a s _

theorem Replied.applyCutDone : Replied a s (State.applyCutDone a s) := by
  refine State.onTag_keeps (.refuse a s) fun _ c _ => ?_
  split
  · rename_i h
    exact ⟨_, _, .endCut c h⟩
  · rename_i h
    exact ⟨_, _, .endCutLate c h⟩
  · exact .refuse a s _

theorem Replied.applyCutRefused : Replied a s (State.applyCutRefused a s) := by
  refine State.onTag_keeps (.refuse a s) fun _ c _ => ?_
  split_ifs with h
  · exact ⟨_, _, .refuseCut c h⟩
  · exact .refuse a s _

theorem Replied.applyBlock : Replied a s (State.applyBlock a s) := by
  refine State.inRange_keeps (.refuse a s) fun c _ => ?_
  dsimp only
  split_ifs with h
  · exact ⟨_, _, .blockOrdered c h⟩
  · exact ⟨_, _, .block c h⟩

theorem Replied.applyUnblock : Replied a s (State.applyUnblock a s) := by
  refine State.inRange_keeps (.refuse a s) fun c _ => ?_
  split_ifs with h
  · exact ⟨_, _, .unblock c h⟩
  · exact .refuse a s _

theorem Replied.applyRoutineResume : Replied a s (State.applyRoutineResume a s) := by
  unfold State.applyRoutineResume
  split_ifs with h
  · exact ⟨_, _, .resume h⟩
  · exact .refuse a s _

/-! #### The requests of the Press link, and ABANDON LOT -/

theorem Replied.applyDumpStarted : Replied a s (State.applyDumpStarted a s) := by
  refine State.onLot_keeps (.refuse a s) fun n x hx => ?_
  split
  · rename_i hl hk
    exact ⟨_, _, .startDump n x hx hl hk⟩
  · exact .refuse a s _

theorem Replied.applyDumpDone : Replied a s (State.applyDumpDone a s) := by
  refine State.inRange_keeps (.refuse a s) fun d _ => State.onLot_keeps (.refuse a s) fun n x hx => ?_
  split
  · rename_i hl hk
    exact ⟨_, _, .endDump n x _ hx hl (.inl hk)⟩
  · rename_i hl hk
    exact ⟨_, _, .endDump n x _ hx hl (.inr hk)⟩
  · exact .refuse a s _

theorem Replied.applyDumpRefused : Replied a s (State.applyDumpRefused a s) := by
  refine State.onLot_keeps (.refuse a s) fun n x hx => ?_
  split
  · rename_i hl hk
    exact ⟨_, _, .refuseDump n x hx hl hk⟩
  · exact .refuse a s _

theorem Replied.applyLotClosed : Replied a s (State.applyLotClosed a s) := by
  refine State.onLot_keeps (.refuse a s) fun n x hx => ?_
  split_ifs with h
  · exact ⟨_, _, .closeLot n x hx h⟩
  · exact .refuse a s _

theorem Replied.applyMouldsReady : Replied a s (State.applyMouldsReady a s) := by
  unfold State.applyMouldsReady
  split_ifs with h
  · exact ⟨_, _, .mouldsReady h⟩
  · exact .refuse a s _

theorem Replied.applyAbandonLot : Replied a s (State.applyAbandonLot a s) := by
  refine State.onLot_keeps (.refuse a s) fun n x hx => ?_
  split_ifs with h
  · exact ⟨_, _, .abandon n x hx h.1 h.2.1 h.2.2⟩
  · exact .refuse a s _

/-! #### The operational requests of the Console link -/

theorem Replied.applyHold : Replied a s (State.applyHold a s) := by
  refine State.onVat_keeps (.refuse a s) fun v => ?_
  split_ifs with h
  · exact .refuse a s _
  · exact ⟨_, _, .hold v (Bool.eq_false_of_not_eq_true h)⟩

theorem Replied.applyRelease : Replied a s (State.applyRelease a s) := by
  refine State.onVat_keeps (.refuse a s) fun v => ?_
  split_ifs with h
  · exact ⟨_, _, .release v h⟩
  · exact .refuse a s _

theorem Replied.applyStepMode : Replied a s (State.applyStepMode a s) := by
  unfold State.applyStepMode
  split
  · exact ⟨_, _, .stepModeOn _⟩
  · exact ⟨_, _, .stepModeOff _⟩
  · exact .refuse a s _

theorem Replied.applyStep : Replied a s (State.applyStep a s) := by
  refine State.onVat_keeps (.refuse a s) fun v => ?_
  split_ifs with h
  · exact .refuse a s _
  · exact ⟨_, _, .step v h⟩

theorem Replied.applyDumpEarly : Replied a s (State.applyDumpEarly a s) := by
  refine State.onSlot_keeps (.refuse a s) fun _ v _ => ?_
  dsimp only
  split_ifs with hw hp ha
  · exact .refuse a s _
  · exact .refuse a s _
  · exact .refuse a s _
  · exact ⟨_, _, .dumpEarly v (not_not.mp hw) (not_not.mp hp) (Bool.eq_false_of_not_eq_true ha)⟩

theorem Replied.applyReleaseOverset : Replied a s (State.applyReleaseOverset a s) := by
  refine State.onSlot_keeps (.refuse a s) fun _ v _ => ?_
  split_ifs with h
  · exact .refuse a s _
  · exact ⟨_, _, .releaseOverset v (not_not.mp h)⟩

theorem Replied.applyDiscard : Replied a s (State.applyDiscard a s) := by
  refine State.onSlot_keeps (.refuse a s) fun _ v _ => ?_
  split_ifs with h
  · exact ⟨_, _, .discard v h⟩
  · exact .refuse a s _

theorem Replied.applyFreeze : Replied a s (State.applyFreeze a s) := by
  unfold State.applyFreeze
  split
  · exact ⟨_, _, .freezeBanks _⟩
  · exact ⟨_, _, .freezeCarriages _⟩
  · exact ⟨_, _, .freezeLine _⟩
  · exact .refuse a s _

theorem Replied.applyClearBank : Replied a s (State.applyClearBank a s) := by
  refine State.inRange_keeps (.refuse a s) fun b _ => ?_
  split_ifs with hf hp
  · exact .refuse a s _
  · exact .refuse a s _
  · exact ⟨_, _, .clearBank b (not_not.mp hf) (Bool.eq_false_of_not_eq_true hp)⟩

theorem Replied.applyClearCarriage : Replied a s (State.applyClearCarriage a s) := by
  refine State.inRange_keeps (.refuse a s) fun c _ => ?_
  split_ifs with h
  · exact ⟨_, _, .clearCarriage c h.1 h.2⟩
  · exact .refuse a s _

theorem Replied.applyClearLine : Replied a s (State.applyClearLine a s) := by
  refine State.inRange_keeps (.refuse a s) fun _ _ => ?_
  split_ifs with h
  · exact ⟨_, _, .clearLine h.1 h.2⟩
  · exact .refuse a s _

/-! #### The configuration requests of the Console link -/

theorem Replied.applySet : Replied a s (State.applySet a s) := by
  refine State.inRange_keeps (.refuse a s) fun i _ => ?_
  dsimp only
  split_ifs with hal hb
  · exact .refuse a s _
  · exact .refuse a s _
  · simp only [Bool.not_eq_true', Bool.not_eq_false] at hal
    exact ⟨_, _, .setItem i _ hal (Bool.eq_false_of_not_eq_true hb)⟩

theorem Replied.applyMapSlot : Replied a s (State.applyMapSlot a s) := by
  unfold State.applyMapSlot
  split
  · split_ifs with hn hm hv
    · exact .refuse a s _
    · exact .refuse a s _
    · exact .refuse a s _
    · simp only [Bool.or_eq_true, Bool.not_eq_true', not_or, Bool.not_eq_false] at hv
      exact ⟨_, _, .mapSlot _ _ (Bool.eq_false_of_not_eq_true hm) hv.1 hv.2⟩
  · exact .refuse a s _

theorem Replied.applyUnmapSlot : Replied a s (State.applyUnmapSlot a s) := by
  refine State.inRange_keeps (.refuse a s) fun slot _ => ?_
  split_ifs with h
  · exact .refuse a s _
  · simp only [Bool.not_eq_true', Bool.not_eq_false] at h
    exact ⟨_, _, .unmapSlot slot h⟩

theorem Replied.applyService : Replied a s (State.applyService a s) := by
  unfold State.applyService
  split
  · exact ⟨_, _, .serviceIn _⟩
  · split_ifs with h
    · exact .refuse a s _
    · exact ⟨_, _, .serviceOut _ (not_not.mp h)⟩
  · exact .refuse a s _

theorem Replied.applyDeclare : Replied a s (State.applyDeclare a s) := by
  refine State.inRange_keeps (.refuse a s) fun d _ => State.resolved_keeps (.refuse a s) fun v hv => ?_
  dsimp only
  split_ifs with hs hst ht
  · exact .refuse a s _
  · exact .refuse a s _
  · exact .refuse a s _
  · exact ⟨_, _, .declare d v hv hs (not_not.mp hst) (by tauto)⟩

/-- The owner of every row replies, and then does what one accepted request does, or nothing. -/
theorem Replied.ownerOf (r : Request) : Replied a s (ownerOf r a s) := by
  cases r with
  | unknownKindRequest => exact .refuse a s _
  | status => exact ⟨_, _, .marksOff _⟩
  | fillOrder => exact .applyFillOrder a s
  | fillCancel => exact .applyFillCancel a s
  | fillResume => exact .applyFillResume a s
  | setSlot => exact .applySetSlot a s
  | vatQuery => exact State.onSlot_keeps (.refuse a s) fun _ _ _ => .answer a s _ _
  | cutStarted => exact .applyCutStarted a s
  | cutDone => exact .applyCutDone a s
  | cutRefused => exact .applyCutRefused a s
  | carriageBlock => exact .applyBlock a s
  | carriageUnblock => exact .applyUnblock a s
  | routinePause => exact ⟨.done, [], .pause⟩
  | routineResume => exact .applyRoutineResume a s
  | dumpStarted => exact .applyDumpStarted a s
  | dumpDone => exact .applyDumpDone a s
  | dumpRefused => exact .applyDumpRefused a s
  | lotClosed => exact .applyLotClosed a s
  | mouldsLow => exact ⟨.done, [], .mouldsLow⟩
  | mouldsReady => exact .applyMouldsReady a s
  | queryVat => exact .applyQuery a s 1 vatOf? State.vatReport
  | queryBank => exact .applyQuery a s 2 bankOf? State.bankReport
  | queryCarriage => exact .applyQuery a s 3 carriageOf? State.carriageReport
  | queryCutLists => exact .applyQuery a s 6 zeroOf? fun t _ => t.cutListsReport
  | queryLine => exact .applyQuery a s 4 zeroOf? fun t _ => t.lineReport
  | queryLotList => exact .applyQuery a s 5 zeroOf? fun t _ => t.lotListReport
  | queryDumpLists => exact .applyQuery a s 7 zeroOf? fun t _ => t.dumpListsReport
  | queryEarlyWindow => exact .applyQuery a s 8 zeroOf? fun t _ => t.windowReport
  | get => exact State.inRange_keeps (.refuse a s) fun _ _ => .answer a s _ _
  | hold => exact .applyHold a s
  | release => exact .applyRelease a s
  | stepMode => exact .applyStepMode a s
  | step => exact .applyStep a s
  | dumpEarly => exact .applyDumpEarly a s
  | releaseOverset => exact .applyReleaseOverset a s
  | discard => exact .applyDiscard a s
  | abandonLot => exact .applyAbandonLot a s
  | freeze => exact .applyFreeze a s
  | clearBank => exact .applyClearBank a s
  | clearCarriage => exact .applyClearCarriage a s
  | clearLine => exact .applyClearLine a s
  | set => exact .applySet a s
  | mapSlot => exact .applyMapSlot a s
  | unmapSlot => exact .applyUnmapSlot a s
  | service => exact .applyService a s
  | declare => exact .applyDeclare a s
  | restart => exact ⟨.done, [], .restart⟩

end Owners

/-- The step of a taking changes nothing but the link's buffer and queue and the EDIT level read, and then has the effect of
one accepted request, or none; or it does not come about. -/
theorem State.takeRequest_effect (r : Request) (l : Link) (edit : Bool) (s : State) :
    State.takeRequest r l edit (ownerOf r) s = s ∨
    ∃ f x d, Effect (s.answered l edit f x d) (State.takeRequest r l edit (ownerOf r) s) := by
  rcases State.takeRequest_cases r l edit (ownerOf r) s with h | ⟨f, x, h⟩ | ⟨f, -, h⟩
  · exact .inl h
  · rw [h]; exact .inr ⟨f, x, [], .nothing⟩
  · rw [h]
    obtain ⟨x, d, he⟩ := Replied.ownerOf ⟨l, f⟩ (s.taken l edit) r
    exact .inr ⟨f, x, d, he⟩

/-! ### Commands and steps -/

/-- A command is a request row or one of the other events. -/
theorem Instr.cases_request {motive : Instr → Prop}
    (request : ∀ l edit r, motive (.ofRequest l edit r))
    (powerOnReset : ∀ resetn r1 r0 proved, motive (.powerOnReset resetn r1 r0 proved))
    (resetnAsserted : motive .resetnAsserted)
    (resetRelease : ∀ r1 r0, motive (.resetRelease r1 r0))
    (frameClosed : ∀ l, motive (.frameClosed l))
    (frameAbandoned : ∀ l, motive (.frameAbandoned l))
    (lineBreak : ∀ l, motive (.lineBreak l))
    (presenceTimeout : ∀ l, motive (.presenceTimeout l))
    (frameSendStart : ∀ l, motive (.frameSendStart l))
    (frameSent : ∀ l, motive (.frameSent l))
    (cutOpenReached : ∀ v, motive (.cutOpenReached v))
    (urgencyMoment : ∀ v, motive (.urgencyMoment v))
    (cutCloseReached : ∀ v, motive (.cutCloseReached v))
    (healMinReached : ∀ v, motive (.healMinReached v))
    (healMaxReached : ∀ v, motive (.healMaxReached v))
    (provedRise : ∀ b, motive (.provedRise b))
    (provedFall : ∀ b, motive (.provedFall b))
    (flowPulse : ∀ b, motive (.flowPulse b))
    (travelTimerExpiry : ∀ b, motive (.travelTimerExpiry b))
    (drainTimerExpiry : ∀ b, motive (.drainTimerExpiry b))
    (pathOpenLimit : ∀ b, motive (.pathOpenLimit b))
    (noFlowTimerExpiry : ∀ b, motive (.noFlowTimerExpiry b))
    (flushTimerExpiry : ∀ b, motive (.flushTimerExpiry b))
    (rinseCounterMatch : ∀ b, motive (.rinseCounterMatch b))
    (rinseTimerExpiry : ∀ b, motive (.rinseTimerExpiry b))
    (parkTimerExpiry : ∀ b, motive (.parkTimerExpiry b))
    (parkDrainEnd : ∀ b, motive (.parkDrainEnd b))
    (cutStartTimerExpiry : ∀ c, motive (.cutStartTimerExpiry c))
    (sliceTimerExpiry : ∀ c, motive (.sliceTimerExpiry c))
    (dumpStartTimerExpiry : motive .dumpStartTimerExpiry)
    (dumpDurationExpiry : motive .dumpDurationExpiry)
    (characterReceived : ∀ l c, motive (.characterReceived l c))
    (lineReturnedToMark : ∀ l, motive (.lineReturnedToMark l)) (i : Instr) : motive i := by
  cases i
  case unknownKindRequest l e => exact request l e .unknownKindRequest
  case status l e => exact request l e .status
  case fillOrder l e => exact request l e .fillOrder
  case fillCancel l e => exact request l e .fillCancel
  case fillResume l e => exact request l e .fillResume
  case setSlot l e => exact request l e .setSlot
  case vatQuery l e => exact request l e .vatQuery
  case cutStarted l e => exact request l e .cutStarted
  case cutDone l e => exact request l e .cutDone
  case cutRefused l e => exact request l e .cutRefused
  case carriageBlock l e => exact request l e .carriageBlock
  case carriageUnblock l e => exact request l e .carriageUnblock
  case routinePause l e => exact request l e .routinePause
  case routineResume l e => exact request l e .routineResume
  case dumpStarted l e => exact request l e .dumpStarted
  case dumpDone l e => exact request l e .dumpDone
  case dumpRefused l e => exact request l e .dumpRefused
  case lotClosed l e => exact request l e .lotClosed
  case mouldsLow l e => exact request l e .mouldsLow
  case mouldsReady l e => exact request l e .mouldsReady
  case queryVat l e => exact request l e .queryVat
  case queryBank l e => exact request l e .queryBank
  case queryCarriage l e => exact request l e .queryCarriage
  case queryCutLists l e => exact request l e .queryCutLists
  case queryLine l e => exact request l e .queryLine
  case queryLotList l e => exact request l e .queryLotList
  case queryDumpLists l e => exact request l e .queryDumpLists
  case queryEarlyWindow l e => exact request l e .queryEarlyWindow
  case get l e => exact request l e .get
  case hold l e => exact request l e .hold
  case release l e => exact request l e .release
  case stepMode l e => exact request l e .stepMode
  case step l e => exact request l e .step
  case dumpEarly l e => exact request l e .dumpEarly
  case releaseOverset l e => exact request l e .releaseOverset
  case discard l e => exact request l e .discard
  case abandonLot l e => exact request l e .abandonLot
  case freeze l e => exact request l e .freeze
  case clearBank l e => exact request l e .clearBank
  case clearCarriage l e => exact request l e .clearCarriage
  case clearLine l e => exact request l e .clearLine
  case set l e => exact request l e .set
  case mapSlot l e => exact request l e .mapSlot
  case unmapSlot l e => exact request l e .unmapSlot
  case service l e => exact request l e .service
  case declare l e => exact request l e .declare
  case restart l e => exact request l e .restart
  all_goals apply_assumption

/-- A step is a command on the state with other waiting commands and another free counter, or a tick, or nothing. -/
theorem step_cases {s t : State} (h : step s = .next t) :
    (∃ i p d, exec i { s with pending := p, drawn := d } = .next t) ∨ (∃ d, t = { s with drawn := d }.tick) ∨ t = s := by
  have hd : ∃ d, s.afterChoice = { s with drawn := d } := by
    unfold State.afterChoice
    split <;> exact ⟨_, rfl⟩
  obtain ⟨d, hd⟩ := hd
  unfold step at h
  split at h
  · exact .inl ⟨_, _, s.drawn, h⟩
  · unfold State.ownStep at h
    split at h
    · exact .inl ⟨_, s.pending, d, hd ▸ h⟩
    · cases h
      exact .inr (.inl ⟨d, by rw [hd]⟩)
    · cases h
      exact .inr (.inr rfl)

end Sys2Proof.Machine
end

