-- ==== Sys2Proof/Proofs/Events.lean ====
section
/-! PROOFS. The work of whole events and of accepted requests: that they are work of the blocks, by the work of their parts. -/

namespace Sys2Proof.Machine

/-! ### The work of whole events and requests, up to their replies -/

theorem Work.applyCutOpen (s : State) (v : Vat) : Work s (s.applyCutOpen v) := by
  unfold State.applyCutOpen
  split
  · exact ((CutWork.modVat s v _ (by intro _; exact ⟨rfl, rfl⟩)).trans (.raise _ _ _)).work
  · exact ((CutWork.enterCutWindow s v).trans (.cutLook _)).work

theorem Work.applyUrgency (s : State) (v : Vat) : Work s (s.applyUrgency v) := by
  unfold State.applyUrgency
  split
  · rename_i t h
    exact ((CutWork.moveUrgent h).trans (.cutLook t)).work
  · exact .refl s

theorem Work.applyCutClose (s : State) (v : Vat) : Work s (s.applyCutClose v) := by
  unfold State.applyCutClose
  split
  · exact (((CutWork.withdrawCut s _ v _ _).trans (.raiseOverset _ v)).trans (.cutLook _)).work
  · exact (((CutWork.leaveCut s v).trans (.becomeOverset _ v)).trans (.raiseOverset _ v)).work

theorem Work.applyHealMin (s : State) (v : Vat) : Work s (s.applyHealMin v) := by
  unfold State.applyHealMin State.raiseStepPending
  split
  · exact ((LineWork.modVat s v _ (by intro _; exact ⟨rfl, rfl⟩)).trans (.raise _ _ _)).work
  · split
    · exact ((LineWork.queueRoutine s v).trans (.lineLook _)).work
    · exact ((LineWork.queueDump s v _ _).trans (.lineLook _)).work

theorem Work.applyHealMax (s : State) (v : Vat) : Work s (s.applyHealMax v) := by
  unfold State.applyHealMax
  split
  · exact (LineWork.modVat s v _ (by intro _; exact ⟨rfl, rfl⟩)).work
  · split
    · rename_i t h
      exact ((LineWork.moveLate h).trans (.lineLook t)).work
    · exact .refl s

theorem Work.applyCutStartExpiry (s : State) (c : Carriage) : Work s (s.applyCutStartExpiry c) := by
  unfold State.applyCutStartExpiry
  split
  · exact .refl s
  · rename_i v _
    have h := CutWork.trans (.modCarriage s c fun k => { k with missed := k.missed + 1 }) (.withdrawCut _ c v .startLimit
      (decide (s.settings.strikes ≤ (s.carriage c).missed + 1)))
    refine (h.trans (CutWork.trans ?_ (.cutLook _))).work
    split
    · exact .raiseCarriageFault _ c _
    · exact .refl _

theorem Work.applySliceExpiry (s : State) (c : Carriage) : Work s (s.applySliceExpiry c) :=
  ((CutWork.modCarriage s c _).trans (.raiseCarriageFault _ c _)).work

theorem Work.applyDumpStartExpiry (s : State) : Work s s.applyDumpStartExpiry := by
  unfold State.applyDumpStartExpiry
  split
  · exact ((LineWork.withdrawDump s _ _).trans (.lineLook _)).work
  · exact .refl s

theorem Work.applyDurationExpiry (s : State) : Work s s.applyDurationExpiry :=
  LineWork.work (((LineWork.records s _ s.lateList s.routine s.lots).trans (.raise _ _ _)).trans (.raise _ _ _))

theorem Work.modVatOf (s : State) (v : Option Vat) (f : VatRecord → VatRecord)
    (hf : ∀ r : VatRecord, (f r).slot = r.slot ∧ (f r).service = r.service) : Work s (s.modVatOf v f) := by
  cases v with
  | none => exact .refl s
  | some v => exact (CutWork.modVat s v f hf).work

theorem Work.startCut (s : State) (c : Carriage) : Work s (s.startCut c) :=
  (CutWork.modCarriage s c _).work.trans (.modVatOf _ _ _ (by intro _; exact ⟨rfl, rfl⟩))

theorem Work.endCut (s : State) (c : Carriage) : Work s (s.endCut c) :=
  (CutWork.modCarriage s c _).work.trans (.modVatOf _ _ _ (by intro _; exact ⟨rfl, rfl⟩))

theorem Work.healMinAfterCut (s : State) (v : Option Vat) : Work s (s.healMinAfterCut v) := by
  cases v with
  | none => exact .refl s
  | some v => exact .healMinAtOnce s v

theorem Work.cancelCurrent (s : State) (b : Bank) (c : Current) : Work s (s.cancelCurrent b c) := by
  unfold State.cancelCurrent
  split
  · exact (BankWork.modBank b s _).work
  · exact (((BankWork.modBank b s _).trans (.endFill b _ _)).trans (.afterTransfer b _)).work

theorem Work.cancelListed (s : State) (b : Bank) (v : Vat) : Work s (s.cancelListed b v) :=
  (((BankWork.modBank b s _).trans (.endFill b _ v)).trans (.parkLook b _)).work

theorem Work.cancelQueued (s : State) (b : Bank) (v : Vat) : Work s (s.cancelQueued b v) :=
  (((BankWork.modBank b s _).trans (.clearVat b _ v)).trans (.parkLook b _)).work

theorem Work.startDump (s : State) (x : Lot) : Work s (s.startDump x) :=
  ((LineWork.records s _ _ _ _).trans (.modVat _ _ _ (by intro _; exact ⟨rfl, rfl⟩))).work

theorem Work.discard (s : State) (v : Vat) : Work s (s.discard v) := by
  have hr : Work (s.leaveCut v) ((s.leaveCut v).releaseCarriageOf v) := by
    unfold State.releaseCarriageOf
    split
    · exact ((CutWork.modCarriage _ _ _).trans (.modVat _ v _ (by intro _; exact ⟨rfl, rfl⟩))).work
    · exact .refl _
  exact (((CutWork.leaveCut s v).work.trans hr).trans
    (LineWork.modVat _ v _ (by intro _; exact ⟨rfl, rfl⟩)).work).trans
    ((LineWork.queueDump _ v _ _).trans (.lineLook _)).work

theorem Work.declareVat (s : State) (d : Declaration) (v : Vat) : Work s (s.declareVat d v) := by
  have hd := (LineWork.modVat s v (fun r => r.declare d (s.settings.timesOf d.recipe)) (by intro _; exact ⟨rfl, rfl⟩)).work
  unfold State.declareVat
  dsimp only
  split
  · exact (hd.trans (LineWork.modVat _ v _ (by intro _; exact ⟨rfl, rfl⟩)).work).trans (.healMinAtOnce _ v)
  · exact hd.trans ((LineWork.joinDump _ v _ _).trans (.lineLook _)).work
  · exact hd

theorem Work.abandon (s : State) (x : Lot) : Work s (s.abandon x) :=
  (LineWork.records s _ _ _ _).work.trans (.queueWash_lineLook _ _)

theorem Work.marginSet (s : State) : Work s s.marginSet := by
  unfold State.marginSet
  split
  · exact ((CutWork.moveAllUrgent s).trans (.cutLook _)).work
  · exact .refl s

end Sys2Proof.Machine
end

