-- ==== Sys2Proof/Proofs/Stores.lean ====
section
/-! PROOFS. What each step can do to the settings store, the slot map and the slot fields: nothing, a reset, a SET, or a
remap. The invariants of the stores follow from the four cases. -/

namespace Sys2Proof.Machine

/-! ### What a remap does -/

@[simp] theorem State.writeSlot_slotMap (s : State) (y : Option Vat) (n : Option Slot) :
    (s.writeSlot y n).slotMap = s.slotMap := by cases y <;> rfl

@[simp] theorem State.writeSlot_settings (s : State) (y : Option Vat) (n : Option Slot) :
    (s.writeSlot y n).settings = s.settings := by cases y <;> rfl

@[simp] theorem State.remap_settings (s : State) (slot : Slot) (y : Option Vat) :
    (s.remap slot y).settings = s.settings := by simp [State.remap]

/-- The slot field of a vat after an entry's vat is given another. -/
theorem State.writeSlot_slot (s : State) (y : Option Vat) (n : Option Slot) (v : Vat) :
    ((s.writeSlot y n).vat v).slot = if y = some v then n else (s.vat v).slot := by
  cases y with
  | none => rfl
  | some y =>
    by_cases h : y = v
    · subst h; simp [State.writeSlot]
    · simp [State.writeSlot, h, Ne.symm h]

/-- The slot field of a vat after a remap. -/
theorem State.remap_slot (s : State) (slot : Slot) (y : Option Vat) (v : Vat) :
    ((s.remap slot y).vat v).slot =
      if y = some v then some slot else if s.slotMap[slot] = some v then none else (s.vat v).slot := by
  have h : ∀ (t : State) (m : Vector (Option Vat) 32), ({ t with slotMap := m } : State).vat v = t.vat v := fun _ _ => rfl
  simp only [State.remap, h, State.writeSlot_slot]

@[simp] theorem State.remap_slotMap (s : State) (slot : Slot) (y : Option Vat) :
    (s.remap slot y).slotMap = s.slotMap.set slot y := by simp [State.remap]

/-- The entry of a slot after a remap. -/
theorem State.remap_entry (s : State) (slot n : Slot) (y : Option Vat) :
    (s.remap slot y).slotMap[n] = if n = slot then y else s.slotMap[n] := by
  by_cases h : n = slot
  · subst h; simp
  · have h' : (slot : Nat) ≠ n := fun e => h (Fin.ext e.symm)
    simp [h, h']

/-! ### What keeps the stores -/

/-- `t` has the stores of `s`: the settings, the slot map and the slot fields. -/
structure StoresStay (s t : State) : Prop where
  settings : t.settings = s.settings
  slotMap : t.slotMap = s.slotMap
  slots : ∀ v, (t.vat v).slot = (s.vat v).slot

theorem StoresStay.refl (s : State) : StoresStay s s := ⟨rfl, rfl, fun _ => rfl⟩

theorem StoresStay.trans {s t u : State} (h : StoresStay s t) (h' : StoresStay t u) : StoresStay s u :=
  ⟨h'.settings.trans h.settings, h'.slotMap.trans h.slotMap, fun v => (h'.slots v).trans (h.slots v)⟩

theorem Work.stores {s t : State} (h : Work s t) : StoresStay s t := ⟨h.settings, h.slotMap, fun v => (h.vats v).1⟩

theorem StoresStay.modVat (s : State) (v : Vat) (f : VatRecord → VatRecord) (hf : ∀ r, (f r).slot = r.slot) :
    StoresStay s (s.modVat v f) := by
  refine ⟨rfl, rfl, fun w => ?_⟩
  by_cases h : w = v
  · subst h; simp [hf]
  · simp [h]

theorem StoresStay.answer (s : State) (a : Asking) (x : Result) (d : List Field) : StoresStay s (s.answer a x d) :=
  ⟨rfl, rfl, fun _ => rfl⟩

theorem StoresStay.modLink (s : State) (l : Link) (f : LinkUnit → LinkUnit) : StoresStay s (s.modLink l f) :=
  ⟨rfl, rfl, fun _ => rfl⟩

/-- A request that is answered, and then work done. -/
theorem StoresStay.answered_work {s t : State} {a : Asking} {x : Result} {d : List Field}
    (h : Work (s.answer a x d) t) : StoresStay s t := (StoresStay.answer s a x d).trans h.stores

theorem StoresStay.becomeAbsent (s : State) (l : Link) (cause : AbsentCause) :
    StoresStay s (s.becomeAbsent l cause) := by
  unfold State.becomeAbsent
  split
  · refine StoresStay.trans (t := (s.modLink l fun u => { u with presence := none }).raise .console
      (.stationAbsent l cause)) ⟨rfl, rfl, fun _ => rfl⟩ ?_
    cases l with
    | fill => exact (BanksWork.parkLooks _ _).work.stores
    | cut => exact ((CutWork.withdrawForAbsence _).trans (.cutLook _)).work.stores
    | press => exact .refl _
    | console => exact .refl _
  · exact .refl s

theorem StoresStay.heard (s : State) (l : Link) : StoresStay s (s.heard l) := by
  unfold State.heard
  split
  · exact .refl s
  · split
    · exact .modLink s l _
    · refine StoresStay.trans (t := (s.modLink l fun u => { u with presence := some 0 }).raise .console
        (.stationPresent l)) ⟨rfl, rfl, fun _ => rfl⟩ ?_
      cases l with
      | fill => exact (BanksWork.bankLooks _ _ _).work.stores
      | cut => exact (CutWork.cutLook _).work.stores
      | press => exact (LineWork.lineLook _).work.stores
      | console => exact .refl _

theorem StoresStay.closeFrame (s : State) (l : Link) (f : OpenFrame) : StoresStay s (s.closeFrame l f) := by
  unfold State.closeFrame
  split
  · exact .modLink s l _
  · exact ((StoresStay.modLink s l _).trans (.heard _ l)).trans (.modLink _ l _)

theorem StoresStay.receive (s : State) (l : Link) (c : Character) : StoresStay s (s.receive l c) := by
  unfold State.receive
  split
  · exact .refl s
  · split
    · exact .modLink s l _
    · exact .refl s
  · exact .modLink s l _
  · split
    · split
      · exact .closeFrame s l _
      · exact .modLink s l _
    · exact .modLink s l _

/-- A RESTART that takes effect keeps the stores. -/
theorem StoresStay.restartNow (s : State) : StoresStay s s.restartNow := by
  refine ⟨rfl, rfl, fun v => ?_⟩
  simp [State.restartNow, State.vat, VatRecord.cleared]

theorem StoresStay.breakLine (s : State) (l : Link) : StoresStay s (s.breakLine l) := by
  have h := (StoresStay.modLink s l fun u => { u with assembly := none, buffer := [], queue := [], inBreak := true }).trans
    (.becomeAbsent _ l .lineBreak)
  unfold State.breakLine
  dsimp only
  split
  · exact h.trans (.restartNow _)
  · exact h

theorem StoresStay.freezeBanks (s : State) (on : Bool) : StoresStay s (s.freezeBanks on) := by
  unfold State.freezeBanks
  dsimp only
  refine StoresStay.trans (t := { s with frozen := { s.frozen with banks := on } }) ⟨rfl, rfl, fun _ => rfl⟩ ?_
  split
  · exact (BanksWork.bankLooks _ _ _).work.stores
  · exact .refl _

theorem StoresStay.freezeCarriages (s : State) (on : Bool) : StoresStay s (s.freezeCarriages on) := by
  unfold State.freezeCarriages
  dsimp only
  refine StoresStay.trans (t := { s with frozen := { s.frozen with carriages := on } }) ⟨rfl, rfl, fun _ => rfl⟩ ?_
  split
  · exact (CutWork.cutLook _).work.stores
  · exact .refl _

theorem StoresStay.freezeLine (s : State) (on : Bool) : StoresStay s (s.freezeLine on) := by
  unfold State.freezeLine
  dsimp only
  refine StoresStay.trans (t := { s with frozen := { s.frozen with line := on } }) ⟨rfl, rfl, fun _ => rfl⟩ ?_
  split
  · exact (LineWork.lineLook _).work.stores
  · exact .refl _

theorem StoresStay.endDump (s : State) (x : Lot) (received : Nat) : StoresStay s (s.endDump x received) := by
  have hf : ∀ t : State, StoresStay t (t.finishLot x received) := by
    intro t
    unfold State.finishLot State.raiseShort
    split
    · exact ⟨rfl, rfl, fun _ => rfl⟩
    · split <;> exact ⟨rfl, rfl, fun _ => rfl⟩
  unfold State.endDump
  dsimp only
  have h₁ : StoresStay s (s.modLine fun k => if k.state = .running then k.released.freed s.clock else k.released) :=
    ⟨rfl, rfl, fun _ => rfl⟩
  have h₂ : ∀ (t : State) (w : List CompletedDump), StoresStay t { t with window := w } :=
    fun _ _ => ⟨rfl, rfl, fun _ => rfl⟩
  exact ((h₁.trans (hf _)).trans (h₂ _ _)).trans (Work.queueWash_lineLook _ _).stores

/-! ### What a step can do to the stores -/

/-- What `t` has of the stores of `s`: all of it, or what a full reset gives, or a SET that the store allowed, or a remap of
a slot to none or to a vat that no entry named. -/
inductive StoresStep (s t : State) : Prop
  | stay (h : StoresStay s t)
  | reset (h : StoresStay State.reset t)
  | set (i : Item) (v : Nat) (allowed : s.settings.allows i v = true)
      (h : StoresStay { s with settings := s.settings.put i v } t)
  | remap (slot : Slot) (v : Option Vat) (free : ∀ w, v = some w → s.mapped w = false) (h : StoresStay (s.remap slot v) t)

/-- A step after one that keeps the stores does to them what it does by itself. -/
theorem StoresStep.after_stay {s t u : State} (h : StoresStay s t) (h' : StoresStep t u) : StoresStep s u := by
  obtain ⟨hs, hm, hv⟩ := h
  cases h' with
  | stay h' => exact .stay (StoresStay.trans ⟨hs, hm, hv⟩ h')
  | reset h' => exact .reset h'
  | set i x ha h' =>
    refine .set i x (hs ▸ ha) (StoresStay.trans (t := { t with settings := t.settings.put i x }) ⟨?_, hm, hv⟩ h')
    rw [hs]
  | remap slot x hf h' =>
    refine .remap slot x (fun w hw => ?_) (StoresStay.trans ?_ h')
    · simpa [State.mapped, hm] using hf w hw
    · refine ⟨by simp [hs], by simp [hm], fun w => ?_⟩
      rw [State.remap_slot, State.remap_slot, hm, hv]

theorem StoresStay.presenceSet (s : State) : StoresStay s s.presenceSet :=
  State.forEachFreely_keeps (StoresStay s) s _ _ (.refl s) (fun _ => ⟨rfl, rfl, fun _ => rfl⟩)
    fun l _ t ht => ht.trans (.becomeAbsent t l _)

/-- What the owner of an item does in its SET keeps the stores. -/
theorem StoresStay.actOnSet (s : State) (i : Item) : StoresStay s (s.actOnSet i) := by
  unfold State.actOnSet
  split
  · exact (Work.marginSet s).stores
  · exact (CutWork.cutLook s).work.stores
  · exact (CutWork.cutLook s).work.stores
  · exact (BanksWork.pathLimitSet s).work.stores
  · exact ⟨rfl, rfl, fun _ => rfl⟩
  · exact (BanksWork.parkDelaySet s).work.stores
  · exact .presenceSet s
  · exact .refl s

/-- What an accepted request does to the stores. -/
theorem StoresStep.of_effect {s t : State} (h : Effect s t) : StoresStep s t := by
  cases h with
  | nothing => exact .stay (.refl s)
  | marksOff l => exact .stay (.modLink s l _)
  | orderFill o v =>
    exact .stay ((CutWork.modVat s v _ (by intro _; exact ⟨rfl, rfl⟩)).work.trans (BankWork.joinTransfer _ _ _).work).stores
  | cancelQueued v => exact .stay (Work.cancelQueued s _ v).stores
  | cancelListed v => exact .stay (Work.cancelListed s _ v).stores
  | cancelCurrent c => exact .stay (Work.cancelCurrent s _ c).stores
  | resumeFill c => exact .stay (BankWork.modBank _ s _).work.stores
  | setVat v => exact .stay (.modVat s v _ fun _ => rfl)
  | startCut c => exact .stay (Work.startCut s c).stores
  | endCut c => exact .stay (((Work.endCut s c).trans (CutWork.cutLook _).work).trans (.healMinAfterCut _ _)).stores
  | endCutLate c => exact .stay ((Work.endCut s c).trans (.healMinAfterCut _ _)).stores
  | refuseCut c => exact .stay ((CutWork.withdrawOrder s c _).trans (.cutLook _)).work.stores
  | block c => exact .stay (CutWork.modCarriage s c _).work.stores
  | blockOrdered c =>
    exact .stay (((CutWork.modCarriage s c _).trans (.withdrawOrder _ c _)).trans (.cutLook _)).work.stores
  | unblock c => exact .stay ((CutWork.modCarriage s c _).trans (.cutLook _)).work.stores
  | pause => exact .stay ⟨rfl, rfl, fun _ => rfl⟩
  | resume =>
    exact .stay (StoresStay.trans (t := { s with routinePause := false }) ⟨rfl, rfl, fun _ => rfl⟩
      (CutWork.cutLook _).work.stores)
  | startDump n x => exact .stay (Work.startDump s x).stores
  | endDump n x received => exact .stay (.endDump s x received)
  | refuseDump n x => exact .stay ((LineWork.withdrawDump s x _).trans (.lineLook _)).work.stores
  | closeLot n x => exact .stay ((LineWork.records s _ _ _ _).trans (.lineLook _)).work.stores
  | mouldsLow => exact .stay ⟨rfl, rfl, fun _ => rfl⟩
  | mouldsReady => exact .stay ((LineWork.records s _ _ _ _).trans (.lineLook _)).work.stores
  | hold v =>
    exact .stay ((CutWork.modVat s v _ (by intro _; exact ⟨rfl, rfl⟩)).work.trans (BanksWork.parkLooks _ _).work).stores
  | release v => exact .stay ((CutWork.modVat s v _ (by intro _; exact ⟨rfl, rfl⟩)).work.trans (.looks _ _ _)).stores
  | stepModeOn v => exact .stay (.modVat s v _ fun _ => rfl)
  | stepModeOff v =>
    exact .stay ((CutWork.modVat s v _ (by intro _; exact ⟨rfl, rfl⟩)).work.trans (.advance _ v)).stores
  | step v => exact .stay (Work.advance s v).stores
  | dumpEarly v =>
    exact .stay (((LineWork.modVat s v _ (by intro _; exact ⟨rfl, rfl⟩)).trans (.queueDump _ v _ _)).trans
      (.lineLook _)).work.stores
  | releaseOverset v =>
    exact .stay (((CutWork.modVat s v _ (by intro _; exact ⟨rfl, rfl⟩)).trans (.enterCutWindow _ v)).trans
      (.cutLook _)).work.stores
  | discard v => exact .stay (Work.discard s v).stores
  | abandon n x => exact .stay (Work.abandon s x).stores
  | freezeBanks on => exact .stay (.freezeBanks s on)
  | freezeCarriages on => exact .stay (.freezeCarriages s on)
  | freezeLine on => exact .stay (.freezeLine s on)
  | clearBank b => exact .stay (BankWork.enterPriming b s).work.stores
  | clearCarriage c => exact .stay ((CutWork.modCarriage s c _).trans (.cutLook _)).work.stores
  | clearLine => exact .stay ((LineWork.records s _ _ _ _).trans (.lineLook _)).work.stores
  | setItem i v allowed =>
    unfold State.setItem
    split
    · exact .stay (.refl s)
    · exact .set i v allowed (.actOnSet _ i)
  | mapSlot slot v unmapped => exact .remap slot (some v) (by rintro w ⟨⟩; exact unmapped) (.refl _)
  | unmapSlot slot => exact .remap slot none (by simp) (.refl _)
  | serviceIn v => exact .stay (.modVat s v _ fun _ => rfl)
  | serviceOut v => exact .stay (.modVat s v _ fun _ => rfl)
  | declare d v => exact .stay (Work.declareVat s d v).stores
  | restart => exact .stay ⟨rfl, rfl, fun _ => rfl⟩

/-! ### The four cases of a command and of a step -/

theorem StoresStep.takeRequest (r : Request) (l : Link) (edit : Bool) (s : State) :
    StoresStep s (State.takeRequest r l edit (ownerOf r) s) := by
  rcases State.takeRequest_effect r l edit s with h | ⟨f, x, d, h⟩
  · rw [h]; exact .stay (.refl s)
  · exact .after_stay (t := s.answered l edit f x d) ⟨rfl, rfl, fun _ => rfl⟩ (.of_effect h)

/-- An event that comes about only when it is due, and then keeps the stores, keeps them. -/
theorem StoresStep.of_due {s t u : State} {c : Prop} [Decidable c] (h : StoresStay s u)
    (ht : Host.Outcome.next (φ := Fault) (ρ := Refusal) (if c then u else s) = .next t) : StoresStep s t := by
  cases ht
  split
  · exact .stay h
  · exact .stay (.refl s)

/-- The same of an event that is stated by what it does not come about in. -/
theorem StoresStep.of_not {s t u : State} {c : Prop} [Decidable c] (h : StoresStay s u)
    (ht : Host.Outcome.next (φ := Fault) (ρ := Refusal) (if c then s else u) = .next t) : StoresStep s t := by
  cases ht
  split
  · exact .stay (.refl s)
  · exact .stay h

theorem StoresStep.exec {i : Instr} {s t : State} (h : exec i s = .next t) : StoresStep s t := by
  induction i using Instr.cases_request with
  | request l edit r =>
    rw [exec_ofRequest] at h
    cases h
    exact .takeRequest r l edit s
  | powerOnReset => cases h; exact .reset ⟨rfl, rfl, fun _ => rfl⟩
  | resetnAsserted => exact .of_not (u := s.holdReset) ⟨rfl, rfl, fun _ => rfl⟩ h
  | resetRelease =>
    cases h
    split
    · exact .reset ⟨rfl, rfl, fun _ => rfl⟩
    · exact .stay (.refl s)
  | frameClosed l =>
    cases h
    split
    · split
      · exact .stay (.refl s)
      · exact .stay (.closeFrame s l _)
    · exact .stay (.refl s)
  | frameAbandoned l =>
    cases h
    split
    · split
      · exact .stay (.refl s)
      · exact .stay (.modLink s l _)
    · exact .stay (.refl s)
  | lineBreak l => exact .of_not (.breakLine s l) h
  | presenceTimeout l => exact .of_due (.becomeAbsent s l _) h
  | frameSendStart l =>
    cases h
    split
    · split
      · exact .stay (.refl s)
      · rename_i u _ _
        refine .stay (StoresStay.trans (t := s.setLink l u) ⟨rfl, rfl, fun _ => rfl⟩ ?_)
        cases l with
        | fill => exact .refl _
        | cut => exact (CutWork.cutLook _).work.stores
        | press => exact (LineWork.lineLook _).work.stores
        | console => exact .refl _
    · exact .stay (.refl s)
  | frameSent l =>
    cases h
    split_ifs
    · exact .stay (.refl s)
    · exact .stay (.restartNow s)
    · exact .stay (.modLink s l _)
  | cutOpenReached v => exact .of_due (Work.applyCutOpen s v).stores h
  | urgencyMoment v => exact .of_due (Work.applyUrgency s v).stores h
  | cutCloseReached v => exact .of_due (Work.applyCutClose s v).stores h
  | healMinReached v => exact .of_due (Work.applyHealMin s v).stores h
  | healMaxReached v => exact .of_due (Work.applyHealMax s v).stores h
  | provedRise b =>
    cases h
    split_ifs
    · exact .stay (.refl s)
    · exact .stay ⟨rfl, rfl, fun _ => rfl⟩
    · exact .stay (StoresStay.trans (t := s.seeProved b true) ⟨rfl, rfl, fun _ => rfl⟩
      (BankWork.applyProvedRise b _).work.stores)
  | provedFall b =>
    cases h
    split
    · exact .stay (.refl s)
    · split
      · exact .stay ⟨rfl, rfl, fun _ => rfl⟩
      · exact .stay (StoresStay.trans (t := s.seeProved b false) ⟨rfl, rfl, fun _ => rfl⟩
          (BankWork.applyProvedFall b _).work.stores)
  | flowPulse b => exact .of_not (BankWork.applyFlow b s).work.stores h
  | travelTimerExpiry b => exact .of_due (BankWork.faultBank b s _).work.stores h
  | drainTimerExpiry b => exact .of_due (BankWork.endDrain b s).work.stores h
  | pathOpenLimit b => exact .of_due (BankWork.expirePath b s).work.stores h
  | noFlowTimerExpiry b => exact .of_due (BankWork.applyNoFlow b s).work.stores h
  | flushTimerExpiry b => exact .of_due (BankWork.applyFlushExpiry b s).work.stores h
  | rinseCounterMatch b => exact .of_due (BankWork.applyRinseMatch b s).work.stores h
  | rinseTimerExpiry b => exact .of_due (BankWork.enterReady b s).work.stores h
  | parkTimerExpiry b => exact .of_due (BankWork.parkBank b s).work.stores h
  | parkDrainEnd b => exact .of_due (BankWork.modBank b s _).work.stores h
  | cutStartTimerExpiry c => exact .of_due (Work.applyCutStartExpiry s c).stores h
  | sliceTimerExpiry c => exact .of_due (Work.applySliceExpiry s c).stores h
  | dumpStartTimerExpiry => exact .of_due (Work.applyDumpStartExpiry s).stores h
  | dumpDurationExpiry => exact .of_due (Work.applyDurationExpiry s).stores h
  | characterReceived l c => exact .of_not (.receive s l c) h
  | lineReturnedToMark l => exact .of_not (.modLink s l _) h

/-- What one step can do to the stores. -/
theorem StoresStep.step {s t : State} (h : step s = .next t) : StoresStep s t := by
  rcases step_cases h with ⟨i, p, d, h⟩ | ⟨d, rfl⟩ | rfl
  · exact .after_stay (t := { s with pending := p, drawn := d }) ⟨rfl, rfl, fun _ => rfl⟩ (.exec h)
  · exact .stay ⟨rfl, rfl, fun _ => rfl⟩
  · exact .stay (.refl t)

end Sys2Proof.Machine
end

