-- ==== Sys2Proof/Proofs/Settings.lean ====
section
/-! PROOFS. The settings store stays in its ranges and orderings (O5). -/

namespace Sys2Proof.Machine

/-! ### The settings (R162, R164) -/

/-- The four times of a class after those of a class are changed. -/
theorem Settings.timesOf_modClass (t : Settings) (c d : RecipeClass) (f : ClassTimes → ClassTimes) :
    (t.modClass c f).timesOf d = if d = c then f (t.timesOf c) else t.timesOf d := by
  by_cases h : d = c
  · subst h; simp [Settings.modClass, Settings.timesOf]
  · have h' : (c : Nat) ≠ d := fun e => h (Fin.ext e.symm)
    simp [Settings.modClass, Settings.timesOf, h, h']

/-- The reach of a carriage after that of a carriage is changed. -/
theorem Settings.reachOf_modReach (t : Settings) (c d : Carriage) (f : Reach → Reach) :
    (t.modReach c f).reachOf d = if d = c then f (t.reachOf c) else t.reachOf d := by
  by_cases h : d = c
  · subst h; simp [Settings.modReach, Settings.reachOf]
  · have h' : (c : Nat) ≠ d := fun e => h (Fin.ext e.symm)
    simp [Settings.modReach, Settings.reachOf, h, h']

/-- The zone end of a bank after that of a bank is changed. -/
theorem Settings.zoneEnd_set (t : Settings) (b d : Bank) (v : Nat) :
    ({ t with zoneEnds := t.zoneEnds.set b v } : Settings).zoneEnd d = if d = b then v else t.zoneEnd d := by
  by_cases h : d = b
  · subst h; simp [Settings.zoneEnd]
  · have h' : (b : Nat) ≠ d := fun e => h (Fin.ext e.symm)
    simp [Settings.zoneEnd, h, h']

/-- The four times of a class as R11 and R164 order them. -/
structure ClassTimes.Sound (x : ClassTimes) : Prop where
  firmMin : 300 ≤ x.firmMin ∧ x.firmMin ≤ 7200
  firm : x.firmMin + 60 ≤ x.firmMax ∧ x.firmMax ≤ 10800
  healMin : x.healMin ≤ 7200
  heal : x.healMin ≤ x.healMax ∧ x.healMax ≤ 14400

/-- The ends of a reach as R90 orders them. -/
structure Reach.Sound (x : Reach) : Prop where
  low : 1 ≤ x.low
  order : x.low ≤ x.high
  high : x.high ≤ 24

/-- The store with every item in its range and in order with the others: R162's table, gathered by class, reach and zone. -/
structure Settings.Sound (t : Settings) : Prop where
  classes : ∀ c, (t.timesOf c).Sound
  reaches : ∀ c, (t.reachOf c).Sound
  zones : ∀ b, t.endBefore b ≤ t.zoneEnd b ∧ t.zoneEnd b ≤ t.endAfter b
  lastZone : t.zoneEnd 3 = 24
  travelLimit : within 2 60 t.travelLimit = true
  drainInterval : within 0 600 t.drainInterval = true
  pathOpenLimit : within 5 240 t.pathOpenLimit = true
  rinseInterval : (decide (t.rinseInterval = 0) || within 10 480 t.rinseInterval) = true
  rinseDuration : within 30 1800 t.rinseDuration = true
  flushCount : within 1 16 t.flushCount = true
  flushDuration : within 10 300 t.flushDuration = true
  parkDelay : (decide (t.parkDelay = 0) || within 1 240 t.parkDelay) = true
  litresPerPulse : decide (t.litresPerPulse = 1 ∨ t.litresPerPulse = 2 ∨ t.litresPerPulse = 5 ∨ t.litresPerPulse = 10) = true
  noFlowTime : within 5 300 t.noFlowTime = true
  washVolume : within 100 2000 t.washVolume = true
  urgencyMargin : within 0 1800 t.urgencyMargin = true
  cutStartLimit : within 10 600 t.cutStartLimit = true
  cutSliceLimit : within 60 3600 t.cutSliceLimit = true
  strikes : within 1 8 t.strikes = true
  dumpStartLimit : within 10 600 t.dumpStartLimit = true
  dumpDurationLimit : within 60 3600 t.dumpDurationLimit = true
  volumeTolerance : within 0 20 t.volumeTolerance = true
  presenceTimeout : within 1 60 t.presenceTimeout = true

/-- The bound of a zone end follows from their order. -/
theorem Settings.zoneEnd_le {t : Settings} (hz : ∀ b, t.endBefore b ≤ t.zoneEnd b ∧ t.zoneEnd b ≤ t.endAfter b)
    (b : Bank) : t.zoneEnd b ≤ 24 := by
  have h0 : t.zoneEnd 0 ≤ t.zoneEnd 1 := (hz 0).2
  have h1 : t.zoneEnd 1 ≤ t.zoneEnd 2 := (hz 1).2
  have h2 : t.zoneEnd 2 ≤ t.zoneEnd 3 := (hz 2).2
  have h3 : t.zoneEnd 3 ≤ 24 := (hz 3).2
  fin_cases b
  · exact (h0.trans h1).trans (h2.trans h3)
  · exact h1.trans (h2.trans h3)
  · exact h2.trans h3
  · exact h3

/-! #### What the range check says of the items that are ordered with others -/

section Allows

variable {t : Settings} {c : RecipeClass} {b : Bank} {k : Carriage} {v : Nat}

theorem Settings.allows_firmMin :
    t.allows (.firmMin c) v = true ↔ (300 ≤ v ∧ v ≤ 7200) ∧ v + 60 ≤ (t.timesOf c).firmMax := by
  simp [Settings.allows, within]

theorem Settings.allows_firmMax : t.allows (.firmMax c) v = true ↔ v ≤ 10800 ∧ (t.timesOf c).firmMin + 60 ≤ v := by
  simp [Settings.allows]

theorem Settings.allows_healMin : t.allows (.healMin c) v = true ↔ v ≤ 7200 ∧ v ≤ (t.timesOf c).healMax := by
  simp [Settings.allows, within]

theorem Settings.allows_healMax : t.allows (.healMax c) v = true ↔ v ≤ 14400 ∧ (t.timesOf c).healMin ≤ v := by
  simp [Settings.allows]

theorem Settings.allows_zoneEnd :
    t.allows (.zoneEnd b) v = true ↔ v ≤ 24 ∧ (t.endBefore b ≤ v ∧ v ≤ t.endAfter b) ∧ (b = 3 → v = 24) := by
  simp [Settings.allows, within, and_assoc, or_iff_not_imp_left]

theorem Settings.allows_reachLow :
    t.allows (.reachLow k) v = true ↔ (1 ≤ v ∧ v ≤ 24) ∧ v ≤ (t.reachOf k).high := by
  simp [Settings.allows, within]

theorem Settings.allows_reachHigh :
    t.allows (.reachHigh k) v = true ↔ (1 ≤ v ∧ v ≤ 24) ∧ (t.reachOf k).low ≤ v := by
  simp [Settings.allows, within]

end Allows

/-- The invariant of the settings, item by item, is soundness of the store. -/
theorem settingsHold_iff (s : State) : SettingsHold s ↔ s.settings.Sound := by
  constructor
  · intro h
    refine { classes := fun c => ?_, reaches := fun c => ?_, zones := fun b => ?_, lastZone := ?_,
             travelLimit := h .travelLimit,
             drainInterval := h .drainInterval,
             pathOpenLimit := h .pathOpenLimit,
             rinseInterval := h .rinseInterval,
             rinseDuration := h .rinseDuration,
             flushCount := h .flushCount,
             flushDuration := h .flushDuration,
             parkDelay := h .parkDelay,
             litresPerPulse := h .litresPerPulse,
             noFlowTime := h .noFlowTime,
             washVolume := h .washVolume,
             urgencyMargin := h .urgencyMargin,
             cutStartLimit := h .cutStartLimit,
             cutSliceLimit := h .cutSliceLimit,
             strikes := h .strikes,
             dumpStartLimit := h .dumpStartLimit,
             dumpDurationLimit := h .dumpDurationLimit,
             volumeTolerance := h .volumeTolerance,
             presenceTimeout := h .presenceTimeout }
    · obtain ⟨h₁, h₁'⟩ := Settings.allows_firmMin.mp (h (.firmMin c))
      exact ⟨h₁, ⟨h₁', (Settings.allows_firmMax.mp (h (.firmMax c))).1⟩, (Settings.allows_healMin.mp (h (.healMin c))).1,
        (Settings.allows_healMin.mp (h (.healMin c))).2, (Settings.allows_healMax.mp (h (.healMax c))).1⟩
    · obtain ⟨⟨h₁, -⟩, h₁'⟩ := Settings.allows_reachLow.mp (h (.reachLow c))
      exact ⟨h₁, h₁', (Settings.allows_reachHigh.mp (h (.reachHigh c))).1.2⟩
    · exact (Settings.allows_zoneEnd.mp (h (.zoneEnd b))).2.1
    · exact (Settings.allows_zoneEnd.mp (h (.zoneEnd 3))).2.2 rfl
  · intro h i
    cases i with
    | firmMin c => exact Settings.allows_firmMin.mpr ⟨(h.classes c).firmMin, (h.classes c).firm.1⟩
    | firmMax c => exact Settings.allows_firmMax.mpr ⟨(h.classes c).firm.2, (h.classes c).firm.1⟩
    | healMin c => exact Settings.allows_healMin.mpr ⟨(h.classes c).healMin, (h.classes c).heal.1⟩
    | healMax c => exact Settings.allows_healMax.mpr ⟨(h.classes c).heal.2, (h.classes c).heal.1⟩
    | zoneEnd b =>
      exact Settings.allows_zoneEnd.mpr ⟨Settings.zoneEnd_le h.zones b, h.zones b, by rintro rfl; exact h.lastZone⟩
    | reachLow c =>
      obtain ⟨h₁, h₂, h₃⟩ := h.reaches c
      exact Settings.allows_reachLow.mpr ⟨⟨h₁, h₂.trans h₃⟩, h₂⟩
    | reachHigh c =>
      obtain ⟨h₁, h₂, h₃⟩ := h.reaches c
      exact Settings.allows_reachHigh.mpr ⟨⟨h₁.trans h₂, h₃⟩, h₂⟩
    | travelLimit => exact h.travelLimit
    | drainInterval => exact h.drainInterval
    | pathOpenLimit => exact h.pathOpenLimit
    | rinseInterval => exact h.rinseInterval
    | rinseDuration => exact h.rinseDuration
    | flushCount => exact h.flushCount
    | flushDuration => exact h.flushDuration
    | parkDelay => exact h.parkDelay
    | litresPerPulse => exact h.litresPerPulse
    | noFlowTime => exact h.noFlowTime
    | washVolume => exact h.washVolume
    | urgencyMargin => exact h.urgencyMargin
    | cutStartLimit => exact h.cutStartLimit
    | cutSliceLimit => exact h.cutSliceLimit
    | strikes => exact h.strikes
    | dumpStartLimit => exact h.dumpStartLimit
    | dumpDurationLimit => exact h.dumpDurationLimit
    | volumeTolerance => exact h.volumeTolerance
    | presenceTimeout => exact h.presenceTimeout

/-- A change of one class's times to sound ones keeps every class sound. -/
theorem Settings.Sound.modClass {t : Settings} (h : t.Sound) (c : RecipeClass) (f : ClassTimes → ClassTimes)
    (hf : (f (t.timesOf c)).Sound) (d : RecipeClass) : ((t.modClass c f).timesOf d).Sound := by
  rw [Settings.timesOf_modClass]
  split
  · exact hf
  · exact h.classes d

/-- The same of a reach. -/
theorem Settings.Sound.modReach {t : Settings} (h : t.Sound) (c : Carriage) (f : Reach → Reach)
    (hf : (f (t.reachOf c)).Sound) (d : Carriage) : ((t.modReach c f).reachOf d).Sound := by
  rw [Settings.reachOf_modReach]
  split
  · exact hf
  · exact h.reaches d

/-- A zone end put between its neighbours keeps all of them in order. -/
theorem Settings.Sound.setZone {t : Settings} (h : t.Sound) (b : Bank) (v : Nat) (hb : t.endBefore b ≤ v)
    (ha : v ≤ t.endAfter b) (d : Bank) :
    ({ t with zoneEnds := t.zoneEnds.set b v } : Settings).endBefore d ≤
        ({ t with zoneEnds := t.zoneEnds.set b v } : Settings).zoneEnd d ∧
      ({ t with zoneEnds := t.zoneEnds.set b v } : Settings).zoneEnd d ≤
        ({ t with zoneEnds := t.zoneEnds.set b v } : Settings).endAfter d := by
  have h0 : t.zoneEnd 0 ≤ t.zoneEnd 1 := (h.zones 0).2
  have h1 : t.zoneEnd 1 ≤ t.zoneEnd 2 := (h.zones 1).2
  have h2 : t.zoneEnd 2 ≤ t.zoneEnd 3 := (h.zones 2).2
  have h3 : t.zoneEnd 3 ≤ 24 := (h.zones 3).2
  simp only [Settings.endBefore, Settings.endAfter, Settings.zoneEnd_set] at hb ha ⊢
  fin_cases b <;> fin_cases d <;> simp_all

/-- A SET that the store allows keeps it sound (R164). -/
theorem Settings.Sound.put {t : Settings} (h : t.Sound) {i : Item} {v : Nat} (hv : t.allows i v = true) :
    (t.put i v).Sound := by
  cases i with
  | firmMin c =>
    obtain ⟨hr, ho⟩ := Settings.allows_firmMin.mp hv
    exact { h with classes := h.modClass c _ { h.classes c with firmMin := hr, firm := ⟨ho, (h.classes c).firm.2⟩ } }
  | firmMax c =>
    obtain ⟨hr, ho⟩ := Settings.allows_firmMax.mp hv
    exact { h with classes := h.modClass c _ { h.classes c with firm := ⟨ho, hr⟩ } }
  | healMin c =>
    obtain ⟨hr, ho⟩ := Settings.allows_healMin.mp hv
    exact { h with classes := h.modClass c _ { h.classes c with healMin := hr, heal := ⟨ho, (h.classes c).heal.2⟩ } }
  | healMax c =>
    obtain ⟨hr, ho⟩ := Settings.allows_healMax.mp hv
    exact { h with classes := h.modClass c _ { h.classes c with heal := ⟨ho, hr⟩ } }
  | zoneEnd b =>
    obtain ⟨-, ho, hl⟩ := Settings.allows_zoneEnd.mp hv
    refine { h with zones := h.setZone b v ho.1 ho.2, lastZone := ?_ }
    refine (t.zoneEnd_set b 3 v).trans ?_
    split_ifs with hb
    · exact hl hb.symm
    · exact h.lastZone
  | reachLow c =>
    obtain ⟨hr, ho⟩ := Settings.allows_reachLow.mp hv
    exact { h with reaches := h.modReach c _ { h.reaches c with low := hr.1, order := ho } }
  | reachHigh c =>
    obtain ⟨hr, ho⟩ := Settings.allows_reachHigh.mp hv
    exact { h with reaches := h.modReach c _ { h.reaches c with order := ho, high := hr.2 } }
  | travelLimit => exact { h with travelLimit := hv }
  | drainInterval => exact { h with drainInterval := hv }
  | pathOpenLimit => exact { h with pathOpenLimit := hv }
  | rinseInterval => exact { h with rinseInterval := hv }
  | rinseDuration => exact { h with rinseDuration := hv }
  | flushCount => exact { h with flushCount := hv }
  | flushDuration => exact { h with flushDuration := hv }
  | parkDelay => exact { h with parkDelay := hv }
  | litresPerPulse => exact { h with litresPerPulse := hv }
  | noFlowTime => exact { h with noFlowTime := hv }
  | washVolume => exact { h with washVolume := hv }
  | urgencyMargin => exact { h with urgencyMargin := hv }
  | cutStartLimit => exact { h with cutStartLimit := hv }
  | cutSliceLimit => exact { h with cutSliceLimit := hv }
  | strikes => exact { h with strikes := hv }
  | dumpStartLimit => exact { h with dumpStartLimit := hv }
  | dumpDurationLimit => exact { h with dumpDurationLimit := hv }
  | volumeTolerance => exact { h with volumeTolerance := hv }
  | presenceTimeout => exact { h with presenceTimeout := hv }

/-- The settings after power-on are sound. -/
theorem Settings.Sound.default : Settings.default.Sound := by
  refine { classes := fun c => ?_, reaches := fun c => ?_, zones := by decide, lastZone := rfl,
           travelLimit := rfl,
           drainInterval := rfl,
           pathOpenLimit := rfl,
           rinseInterval := rfl,
           rinseDuration := rfl,
           flushCount := rfl,
           flushDuration := rfl,
           parkDelay := rfl,
           litresPerPulse := rfl,
           noFlowTime := rfl,
           washVolume := rfl,
           urgencyMargin := rfl,
           cutStartLimit := rfl,
           cutSliceLimit := rfl,
           strikes := rfl,
           dumpStartLimit := rfl,
           dumpDurationLimit := rfl,
           volumeTolerance := rfl,
           presenceTimeout := rfl }
  · have h : Settings.default.timesOf c = ⟨1800, 2400, 1500, 2700⟩ := by simp [Settings.timesOf, Settings.default]
    rw [h]
    constructor <;> decide
  · fin_cases c <;> constructor <;> decide

/-- Settles O5: a step leaves the store, or brings its start-up values, or puts a value that the store allows. -/
theorem everyStepKeepsSettings : Obligations.EveryStepKeepsSettings := by
  intro s t hs hstep
  rw [settingsHold_iff] at hs ⊢
  cases StoresStep.step hstep with
  | stay h => rw [h.settings]; exact hs
  | reset h => rw [h.settings]; exact .default
  | set i v allowed h => rw [h.settings]; exact hs.put allowed
  | remap slot v free h =>
    rw [h.settings, State.remap_settings]
    exact hs

end Sys2Proof.Machine
end

