-- ==== Sys2Proof/Proofs/SlotMap.lean ====
section
/-! PROOFS. The slot fields and the slot map stay in agreement (O6). -/

namespace Sys2Proof.Machine

/-! ### The slot map (R5, R7, R8) -/

/-- The invariant looks at the slot map and the slot fields alone. -/
theorem StoresStay.slotsAgree {s t : State} (h : StoresStay s t) (hs : SlotsAgree s) : SlotsAgree t := by
  intro v n
  rw [h.slots v, h.slotMap]
  exact hs v n

theorem SlotsAgree.reset : SlotsAgree State.reset := by
  intro v n
  simp [State.reset, State.vat, VatRecord.reset, Fin.ext_iff]
  omega

/-- A remap to none, or to a vat that no entry names, keeps the agreement. -/
theorem SlotsAgree.remap {s : State} (hs : SlotsAgree s) {slot : Slot} {y : Option Vat}
    (free : ∀ w, y = some w → s.mapped w = false) : SlotsAgree (s.remap slot y) := by
  intro v n
  rw [State.remap_slot, State.remap_entry]
  by_cases hy : y = some v
  · have hv : ∀ m : Slot, s.slotMap[m] ≠ some v := by simpa [State.mapped] using free v hy
    by_cases hn : n = slot
    · simp [hy, hn]
    · have hne : ¬ slot = n := fun e => hn e.symm
      simpa [hy, hn, hne] using hv n
  · by_cases hn : n = slot
    · subst hn
      by_cases ho : s.slotMap[n] = some v
      · simp [hy, ho]
      · rw [if_neg hy, if_neg ho, if_pos rfl]
        exact ⟨fun e => absurd ((hs v n).mp e) ho, fun e => absurd e hy⟩
    · by_cases ho : s.slotMap[slot] = some v
      · have hslot := (hs v slot).mpr ho
        have hne : s.slotMap[n] ≠ some v := fun e => hn (by
          have := ((hs v n).mpr e).symm.trans hslot
          simpa using this)
        simpa [hy, hn, ho] using hne
      · rw [if_neg hy, if_neg ho, if_neg hn]
        exact hs v n

/-- Settles O6: a step leaves the slot map and the slot fields, or brings those of start-up, or remaps one slot. -/
theorem everyStepKeepsSlots : Obligations.EveryStepKeepsSlots := by
  intro s t hs hstep
  cases StoresStep.step hstep with
  | stay h => exact h.slotsAgree hs
  | reset h => exact h.slotsAgree .reset
  | set i v allowed h => exact h.slotsAgree hs
  | remap slot v free h => exact h.slotsAgree (hs.remap free)

end Sys2Proof.Machine
end

