-- ==== Sys2Proof/Proofs/VatRecords.lean ====
section
/-! PROOFS. What each change of a vat record keeps of its soundness: one lemma for each field or stage that an operation
writes. -/

namespace Sys2Proof.Machine

namespace VatRecord

variable {r : VatRecord}

/-- A cleared record is sound, whatever it was (R3). -/
theorem Sound.cleared (r : VatRecord) : r.cleared.Sound := by
  constructor <;> simp [VatRecord.cleared]

/-- The record of a vat after power-on is sound (R4). -/
theorem Sound.reset (v : Vat) : (VatRecord.reset v).Sound := by
  constructor <;> simp [VatRecord.reset, VatRecord.cleared]

/-! ### Fields of a vat that is not VACANT -/

theorem Sound.withCarriage (h : r.Sound) (hn : r.stage ≠ .vacant) (c : Option Carriage) :
    ({ r with carriage := c } : VatRecord).Sound := { h with vacant := fun e => absurd e hn }

theorem Sound.withLot (h : r.Sound) (hn : r.stage ≠ .vacant) (n : Option Nat) :
    ({ r with lot := n } : VatRecord).Sound := { h with vacant := fun e => absurd e hn }

theorem Sound.withFilled (h : r.Sound) (hn : r.stage ≠ .vacant) (n : Nat) :
    ({ r with filled := n } : VatRecord).Sound := { h with vacant := fun e => absurd e hn }

theorem Sound.withHealMaxFirst (h : r.Sound) (hn : r.stage ≠ .vacant) (b : Bool) :
    ({ r with healMaxFirst := b } : VatRecord).Sound := { h with vacant := fun e => absurd e hn }

/-! ### The marks of the operator (R9, R13, R15) -/

theorem Sound.withHeld (h : r.Sound) (b : Bool) : ({ r with held := b } : VatRecord).Sound :=
  { h with vacant := fun e => by rw [h.vacant e]; rfl }

theorem Sound.stepModeOn (h : r.Sound) : ({ r with stepMode := true } : VatRecord).Sound :=
  { h with
    vacant := fun e => by rw [h.vacant e]; rfl
    cutOpenPending := fun e => ⟨(h.cutOpenPending e).1, rfl⟩
    healMinPending := fun e => ⟨(h.healMinPending e).1, rfl⟩ }

/-- Step mode can go off while no advance waits. -/
theorem Sound.stepModeOff (h : r.Sound) (hp : r.stepPending = .nothing) :
    ({ r with stepMode := false } : VatRecord).Sound :=
  { h with
    vacant := fun e => by rw [h.vacant e]; rfl
    cutOpenPending := fun e => absurd (hp.symm.trans e) (by decide)
    healMinPending := fun e => absurd (hp.symm.trans e) (by decide) }

theorem Sound.withService (h : r.Sound) (x : Service) (hx : x = .outOfUse → r.stage = .vacant) :
    ({ r with service := x } : VatRecord).Sound :=
  { h with
    service := hx
    vacant := fun e => by rw [h.vacant e]; rfl }

/-- A VACANT vat may have any slot or none; another must have one. -/
theorem Sound.withSlot (h : r.Sound) (n : Option Slot) (hn : r.stage ≠ .vacant → n.isSome) :
    ({ r with slot := n } : VatRecord).Sound :=
  { h with
    slot := hn
    vacant := fun e => by rw [h.vacant e]; rfl }

/-! ### Stages -/

/-- An advance waits in SETTING and in WORKING alone. -/
theorem Sound.pending_nothing (h : r.Sound) (hs : r.stage ≠ .setting) (hw : r.stage ≠ .working) :
    r.stepPending = .nothing := by
  cases hp : r.stepPending with
  | nothing => rfl
  | cutOpen => exact absurd (h.cutOpenPending hp).1 hs
  | healMin => exact absurd (h.healMinPending hp).1 hw

/-- A vat that is not VACANT keeps a sound record in another stage that its times allow, with no advance waiting. -/
theorem Sound.restage (h : r.Sound) (hn : r.stage ≠ .vacant) {x : Stage} (hx : x ≠ .vacant) {p : StepPending}
    (hp : p = .nothing) (coagulating : x = .setting ∨ x = .overset → r.cutClose.isSome)
    (cut : x = .cutWindow ∨ x = .cutting → r.setTime.isSome) (working : x = .working → r.cutDone.isSome)
    (marks : r.early = true ∨ r.waste = true → x = .dumpQueued ∨ x = .dumping ∨ x = .washing) :
    ({ r with stage := x, stepPending := p } : VatRecord).Sound :=
  { h with
    service := fun e => absurd (h.service e) hn
    slot := fun _ => h.slot hn
    batch := ⟨fun _ => hx, fun _ => h.batch.mpr hn⟩
    recipe := ⟨fun _ => hx, fun _ => h.recipe.mpr hn⟩
    snapshot := ⟨fun _ => hx, fun _ => h.snapshot.mpr hn⟩
    target := ⟨fun _ => hx, fun _ => h.target.mpr hn⟩
    vacant := fun e => absurd e hx
    coagulating := coagulating
    cut := cut
    working := working
    cutOpenPending := fun e => absurd (hp.symm.trans e) (by decide)
    healMinPending := fun e => absurd (hp.symm.trans e) (by decide)
    marks := marks }

/-- Outside the stages of a dump a record carries neither mark. -/
theorem Sound.no_marks (h : r.Sound) (hs : r.stage ≠ .dumpQueued ∧ r.stage ≠ .dumping ∧ r.stage ≠ .washing) :
    ¬ (r.early = true ∨ r.waste = true) := fun e => by
  rcases h.marks e with h' | h' | h'
  · exact hs.1 h'
  · exact hs.2.1 h'
  · exact hs.2.2 h'

/-- A take: FILL-QUEUED becomes FILLING (R24). -/
theorem Sound.filling (h : r.Sound) (hs : r.stage = .fillQueued) : ({ r with stage := .filling } : VatRecord).Sound :=
  h.restage (by simp [hs]) (by decide) (h.pending_nothing (by simp [hs]) (by simp [hs])) (by simp) (by simp) (by simp)
    fun e => absurd e (h.no_marks (by simp [hs]))

/-- The end of a fill: FILLING becomes CHARGED (R25, R26). -/
theorem Sound.charged (h : r.Sound) (hs : r.stage = .filling) : ({ r with stage := .charged } : VatRecord).Sound :=
  h.restage (by simp [hs]) (by decide) (h.pending_nothing (by simp [hs]) (by simp [hs])) (by simp) (by simp) (by simp)
    fun e => absurd e (h.no_marks (by simp [hs]))

/-- A vat SETTING, CUT-WINDOW, CUTTING or OVERSET has been set (R2, R28). -/
theorem Sound.setTime_isSome (h : r.Sound)
    (hs : r.stage = .setting ∨ r.stage = .cutWindow ∨ r.stage = .cutting ∨ r.stage = .overset) : r.setTime.isSome := by
  rcases hs with hs | hs | hs | hs
  · exact h.cutClose (h.coagulating (.inl hs))
  · exact h.cut (.inl hs)
  · exact h.cut (.inr hs)
  · exact h.cutClose (h.coagulating (.inr hs))

/-- A SETTING or OVERSET vat enters the cut window (R30, R31, R37). -/
theorem Sound.cutWindow (h : r.Sound) (hs : r.stage = .setting ∨ r.stage = .overset) :
    ({ r with stage := .cutWindow, stepPending := .nothing } : VatRecord).Sound := by
  have hm : ¬ (r.early = true ∨ r.waste = true) := h.no_marks (by rcases hs with hs | hs <;> simp [hs])
  exact h.restage (by rcases hs with hs | hs <;> simp [hs]) (by decide) rfl (by simp)
    (fun _ => h.setTime_isSome (by tauto)) (by simp) fun e => absurd e hm

/-- The cut of a CUT-WINDOW vat starts (R35). -/
theorem Sound.cutting (h : r.Sound) (hs : r.stage = .cutWindow ∨ r.stage = .cutting) :
    ({ r with stage := .cutting } : VatRecord).Sound := by
  have hm : ¬ (r.early = true ∨ r.waste = true) := h.no_marks (by rcases hs with hs | hs <;> simp [hs])
  have hp : r.stepPending = .nothing := by rcases hs with hs | hs <;> exact h.pending_nothing (by simp [hs]) (by simp [hs])
  exact h.restage (by rcases hs with hs | hs <;> simp [hs]) (by decide) hp (by simp) (fun _ => h.cut hs) (by simp)
    fun e => absurd e hm

/-- A SETTING or CUT-WINDOW vat whose cut-close is reached becomes OVERSET (R33). -/
theorem Sound.overset (h : r.Sound) (hs : r.stage = .setting ∨ r.stage = .cutWindow) (hc : r.cutClose.isSome) :
    ({ r with stage := .overset, stepPending := .nothing } : VatRecord).Sound := by
  have hm : ¬ (r.early = true ∨ r.waste = true) := h.no_marks (by rcases hs with hs | hs <;> simp [hs])
  exact h.restage (by rcases hs with hs | hs <;> simp [hs]) (by decide) rfl (fun _ => hc) (by simp) (by simp)
    fun e => absurd e hm

/-- A vat in the cut window may lose its cut-close (R37). -/
theorem Sound.withoutCutClose (h : r.Sound) (hs : r.stage = .cutWindow) :
    ({ r with cutClose := none } : VatRecord).Sound :=
  { h with
    vacant := fun e => absurd (hs.symm.trans e) (by decide)
    cutClose := by simp
    coagulating := by simp [hs] }

/-- Any vat that is not VACANT may join the dump queue (R38, R40, R46). -/
theorem Sound.dumpQueued (h : r.Sound) (hn : r.stage ≠ .vacant) :
    ({ r with stage := .dumpQueued, stepPending := .nothing } : VatRecord).Sound :=
  h.restage hn (by decide) rfl (by simp) (by simp) (by simp) (by simp)

/-- The marks of a vat that joins the dump queue (R40, R46). -/
theorem Sound.withMarks (h : r.Sound) (hs : r.stage = .dumpQueued) (early waste : Bool) :
    ({ r with early := early, waste := waste } : VatRecord).Sound :=
  { h with vacant := fun e => absurd (hs.symm.trans e) (by decide), marks := fun _ => .inl hs }

/-- The dump of a DUMP-QUEUED vat starts (R42). -/
theorem Sound.dumping (h : r.Sound) (hs : r.stage = .dumpQueued ∨ r.stage = .dumping) :
    ({ r with stage := .dumping } : VatRecord).Sound := by
  have hp : r.stepPending = .nothing := by rcases hs with hs | hs <;> exact h.pending_nothing (by simp [hs]) (by simp [hs])
  exact h.restage (by rcases hs with hs | hs <;> simp [hs]) (by decide) hp (by simp) (by simp) (by simp) (by simp)

/-- A vat leaves DUMPING and is washed (R43). -/
theorem Sound.washing (h : r.Sound) (hs : r.stage = .dumpQueued ∨ r.stage = .dumping) :
    ({ r with stage := .washing, lot := none } : VatRecord).Sound := by
  have hp : r.stepPending = .nothing := by rcases hs with hs | hs <;> exact h.pending_nothing (by simp [hs]) (by simp [hs])
  exact (h.restage (x := .washing) (by rcases hs with hs | hs <;> simp [hs]) (by decide) hp (by simp) (by simp)
    (by simp) (by simp)).withLot (by simp) none

/-! ### The steps of the make cycle that fill fields in -/

/-- The record of a VACANT vat filled in, with no time given (R12, R17, R23). -/
theorem Sound.filledIn (h : r.Sound) (hs : r.stage = .vacant) (service : r.service ≠ .outOfUse) (slot : r.slot.isSome)
    {x : Stage} (hx : x = .fillQueued ∨ x = .charged ∨ x = .dumpQueued) (batch : Nat) (recipe : RecipeClass)
    (times : ClassTimes) (target filled : Nat) (declared : Bool) :
    ({ r with stage := x, batch := some batch, recipe := some recipe, snapshot := some times, target := some target,
              filled := filled, declared := declared } : VatRecord).Sound := by
  have hm := h.no_marks (by simp [hs])
  have hp := h.pending_nothing (by simp [hs]) (by simp [hs])
  have hn : x ≠ .vacant := by rcases hx with rfl | rfl | rfl <;> decide
  exact
    { h with
      service := fun e => absurd e service
      slot := fun _ => slot
      batch := by simp [hn]
      recipe := by simp [hn]
      snapshot := by simp [hn]
      target := by simp [hn]
      vacant := fun e => absurd e hn
      coagulating := by rcases hx with rfl | rfl | rfl <;> simp
      cut := by rcases hx with rfl | rfl | rfl <;> simp
      working := by rcases hx with rfl | rfl | rfl <;> simp
      cutOpenPending := fun e => absurd (hp.symm.trans e) (by decide)
      healMinPending := fun e => absurd (hp.symm.trans e) (by decide)
      marks := fun e => absurd e hm }

theorem Sound.ordered (h : r.Sound) (hs : r.stage = .vacant) (service : r.service ≠ .outOfUse) (slot : r.slot.isSome)
    (o : FillOrder) (times : ClassTimes) : (r.ordered o times).Sound :=
  h.filledIn hs service slot (.inl rfl) _ _ _ _ _ _

theorem Sound.declare (h : r.Sound) (hs : r.stage = .vacant) (service : r.service ≠ .outOfUse) (slot : r.slot.isSome)
    (d : Declaration) (times : ClassTimes) (target : d.stage = .charged ∨ d.stage = .dumpQueued) :
    (r.declare d times).Sound := h.filledIn hs service slot (.inr target) _ _ _ _ _ _

/-- The times of the heal given to a record that is not VACANT (R2). -/
theorem Sound.healed (h : r.Sound) (hn : r.stage ≠ .vacant) (c : Option Carriage) (a b d : Nat) :
    ({ r with carriage := c, cutDone := some a, healMin := some b, healMax := some d } : VatRecord).Sound :=
  { h with vacant := fun e => absurd e hn, working := fun _ => rfl, healMin := by simp, healMax := by simp }

/-- A DECLARE into WORKING gives the heal times as well (R2, R17). -/
theorem Sound.declareWorking (h : r.Sound) (hs : r.stage = .vacant) (service : r.service ≠ .outOfUse)
    (slot : r.slot.isSome) (d : Declaration) (times : ClassTimes) (clock : Nat) (target : d.stage = .working) :
    ((r.declare d times).healFrom clock times).Sound := by
  have hm := h.no_marks (by simp [hs])
  have hp := h.pending_nothing (by simp [hs]) (by simp [hs])
  have hc := (h.filledIn hs service slot (x := .charged) (by simp) d.batch d.recipe times d.volume d.volume true).healed
    (by simp) r.carriage clock (after clock times.healMin) (after clock times.healMax)
  exact hc.restage (by simp) (x := d.stage) (by simp [target]) hp (by simp [target]) (by simp [target]) (fun _ => rfl)
    fun e => absurd e hm

/-- The cut of a vat in a carriage is done (R36). -/
theorem Sound.cutAt (h : r.Sound) (hs : r.stage = .cutWindow ∨ r.stage = .cutting) (clock : Nat) :
    (r.cutAt clock).Sound := by
  have hn : r.stage ≠ .vacant := by rcases hs with hs | hs <;> simp [hs]
  have hm : ¬ (r.early = true ∨ r.waste = true) := h.no_marks (by rcases hs with hs | hs <;> simp [hs])
  have hp : r.stepPending = .nothing := by rcases hs with hs | hs <;> exact h.pending_nothing (by simp [hs]) (by simp [hs])
  obtain ⟨x, hx⟩ := Option.isSome_iff_exists.mp (h.snapshot.mpr hn)
  have hc := (h.healed hn none clock (after clock x.healMin) (after clock x.healMax)).restage hn (x := .working)
    (by decide) hp (by simp) (by simp) (fun _ => rfl) fun e => absurd e hm
  simpa [VatRecord.cutAt, hx] using hc

/-- A CHARGED vat is set (R28). -/
theorem Sound.setAt (h : r.Sound) (hs : r.stage = .charged) (clock : Nat) : (r.setAt clock).Sound := by
  have hn : r.stage ≠ .vacant := by simp [hs]
  have hm := h.no_marks (by simp [hs])
  have hp := h.pending_nothing (by simp [hs]) (by simp [hs])
  obtain ⟨x, hx⟩ := Option.isSome_iff_exists.mp (h.snapshot.mpr hn)
  have ht : ({ r with setTime := some clock, cutOpen := r.snapshot.map fun t => after clock t.firmMin,
                      cutClose := r.snapshot.map fun t => after clock t.firmMax } : VatRecord).Sound :=
    { h with vacant := fun e => absurd e hn, cutOpen := by simp [hx], cutClose := by simp,
             coagulating := by simp [hs], cut := by simp }
  exact ht.restage hn (x := .setting) (by decide) hp (fun _ => by simp [hx]) (by simp) (by simp) fun e => absurd e hm

/-- An advance waits for the operator under step mode (R15, R30, R38). -/
theorem Sound.pendingCutOpen (h : r.Sound) (hs : r.stage = .setting) (hm : r.stepMode = true) :
    ({ r with stepPending := .cutOpen } : VatRecord).Sound :=
  { h with
    vacant := fun e => absurd (hs.symm.trans e) (by decide)
    cutOpenPending := fun _ => ⟨hs, hm⟩
    healMinPending := fun e => by cases e }

theorem Sound.pendingHealMin (h : r.Sound) (hs : r.stage = .working) (hm : r.stepMode = true) :
    ({ r with stepPending := .healMin } : VatRecord).Sound :=
  { h with
    vacant := fun e => absurd (hs.symm.trans e) (by decide)
    cutOpenPending := fun e => by cases e
    healMinPending := fun _ => ⟨hs, hm⟩ }

end VatRecord

end Sys2Proof.Machine
end

