-- ==== Sys2Proof/Proofs/Grants.lean ====
section
/-! PROOFS. What one look of the carriage arbiter and of the curd line arbiter does: nothing, or grants, each from an entry of
its lists under its conditions (R92 to R96, R118 to R120). -/

namespace Sys2Proof.Machine

/-! ### The carriage arbiter -/

/-- A chosen cut entry is the head-most eligible one of URGENT, or of OPEN while routine pause is off (R94). -/
theorem State.chooseCut_eq_some {s : State} {x : CutChoice} (h : s.chooseCut = some x) :
    (x.list = .urgent ∧ pick? (fun e => (s.carriageFor e).isSome) s.urgent = some (x.entry, x.rest)) ∨
    (x.list = .openList ∧ pick? (fun e => (s.carriageFor e).isSome) s.openList = some (x.entry, x.rest)) := by
  unfold State.chooseCut at h
  dsimp only at h
  split at h
  · rename_i e rest hp
    cases h
    exact .inl ⟨rfl, hp⟩
  · split at h
    · cases h
    · split at h
      · rename_i e rest hp
        cases h
        exact .inr ⟨rfl, hp⟩
      · cases h

/-- The entries of a list with one picked are that one and the rest. -/
theorem mem_of_pick? {α : Type} {p : α → Bool} {l rest : List α} {x : α} (h : pick? p l = some (x, rest)) (y : α) :
    y ∈ l ↔ y = x ∨ y ∈ rest := by
  obtain ⟨before, behind, rfl, rfl, -, -⟩ := pick?_eq_some.mp h
  simp only [List.mem_append, List.mem_cons]
  tauto

/-- The chosen entry stands in a cut list, and the lists without it hold no other entry. -/
theorem State.chooseCut_mem {s : State} {x : CutChoice} (h : s.chooseCut = some x) :
    x.entry ∈ s.urgent ++ s.openList ∧
      ∀ e ∈ (s.withoutChosen x).urgent ++ (s.withoutChosen x).openList, e ∈ s.urgent ++ s.openList := by
  rcases State.chooseCut_eq_some h with ⟨hl, hp⟩ | ⟨hl, hp⟩
  all_goals
    have hm := mem_of_pick? hp
    refine ⟨by simp [hm], fun e he => ?_⟩
    simp only [State.withoutChosen, hl, List.mem_append] at he ⊢
    rw [hm]
    tauto

/-- A grant is made of the chosen entry to the carriage it is eligible for, with carriages not frozen, the Cut station
PRESENT and room in its queue (R93 to R96). -/
theorem State.grantCut_eq_some {s t : State} (h : s.grantCut = some t) :
    s.frozen.carriages = false ∧ s.present .cut = true ∧ (s.link .cut).hasRoom = true ∧
      ∃ x c, s.chooseCut = some x ∧ s.carriageFor x.entry = some c ∧ t = s.applyCutGrant x c := by
  unfold State.grantCut at h
  split at h
  · cases h
  · rename_i hg
    simp only [Bool.or_eq_true, Bool.not_eq_true', not_or, Bool.not_eq_true, Bool.not_eq_false] at hg
    obtain ⟨⟨hf, hp⟩, hr⟩ := hg
    split at h
    · rename_i x hx
      split at h
      · rename_i c hc
        cases h
        exact ⟨hf, hp, hr, x, c, hx, hc, rfl⟩
      · cases h
    · cases h

/-- The carriage an entry is granted to is one that it is eligible for (R95). -/
theorem State.carriageFor_eligible {s : State} {e : CutEntry} {c : Carriage} (h : s.carriageFor e = some c) :
    s.cutEligible e c = true := by
  unfold State.carriageFor at h
  split at h
  · rename_i h₀ h₁
    split at h <;> cases h
    · exact h₁
    · exact h₀
  · rename_i h₀ h₁
    cases h
    exact h₀
  · rename_i h₀ h₁
    cases h
    exact h₁
  · cases h

/-- What every grant keeps, a look keeps. -/
theorem State.cutLook_keeps {P : State → Prop} {s : State} (hs : P s)
    (hg : ∀ t x c, P t → t.chooseCut = some x → t.carriageFor x.entry = some c → P (t.applyCutGrant x c)) :
    P s.cutLook := by
  have grant : ∀ t u, P t → t.grantCut = some u → P u := by
    intro t u ht h
    obtain ⟨-, -, -, x, c, hx, hc, rfl⟩ := State.grantCut_eq_some h
    exact hg t x c ht hx hc
  unfold State.cutLook
  split
  · rename_i t h
    have ht := grant s t hs h
    cases h' : t.grantCut with
    | none => exact ht
    | some u => exact grant t u ht h'
  · exact hs

/-! ### The curd line arbiter -/

/-- A chosen dump entry is the head-most of LATE whose vat is not held, or else of ROUTINE that may be granted (R119). -/
theorem State.chooseDump_eq_some {s : State} {x : DumpChoice} (h : s.chooseDump = some x) :
    (x.fromLate = true ∧ pick? (fun e => !s.isHeld e.vat) s.lateList = some (x.entry, x.rest)) ∨
    (x.fromLate = false ∧ pick? (fun e => !s.isHeld e.vat) s.lateList = none ∧
      pick? s.routineEligible s.routine = some (x.entry, x.rest)) := by
  unfold State.chooseDump at h
  split at h
  · rename_i e rest hp
    cases h
    exact .inl ⟨rfl, hp⟩
  · rename_i hn
    split at h
    · rename_i e rest hp
      cases h
      exact .inr ⟨rfl, hn, hp⟩
    · cases h

/-- The dump lists after an entry has been granted. -/
def State.withoutDump (s : State) (x : DumpChoice) : State :=
  if x.fromLate then { s with lateList := x.rest } else { s with routine := x.rest }

/-- The chosen entry stands in a dump list, and the lists without it hold no other entry. -/
theorem State.chooseDump_mem {s : State} {x : DumpChoice} (h : s.chooseDump = some x) :
    x.entry ∈ s.lateList ++ s.routine ∧
      ∀ e ∈ (s.withoutDump x).lateList ++ (s.withoutDump x).routine, e ∈ s.lateList ++ s.routine := by
  rcases State.chooseDump_eq_some h with ⟨hl, hp⟩ | ⟨hl, -, hp⟩
  all_goals
    have hm := mem_of_pick? hp
    refine ⟨by simp [hm], fun e he => ?_⟩
    simp only [State.withoutDump, hl, if_true, if_false, Bool.false_eq_true, List.mem_append] at he ⊢
    rw [hm]
    tauto

/-- A look of the line changes nothing, or grants the chosen entry under the conditions of R119. -/
theorem State.lineLook_cases (s : State) :
    s.lineLook = s ∨ (s.line.state = .free ∧ s.frozen.line = false ∧ s.present .press = true ∧
      (s.link .press).hasRoom = true ∧ s.lots.length < 12) ∧
      ∃ x, s.chooseDump = some x ∧ s.lineLook = s.applyLineGrant x := by
  unfold State.lineLook State.grantLine
  split
  · rename_i hg
    simp only [Bool.and_eq_true, decide_eq_true_eq, Bool.not_eq_true'] at hg
    obtain ⟨⟨⟨⟨hl, hf⟩, hp⟩, hr⟩, hn⟩ := hg
    cases hx : s.chooseDump with
    | none => exact .inl rfl
    | some x => exact .inr ⟨⟨hl, hf, hp, hr, hn⟩, x, rfl, rfl⟩
  · exact .inl rfl

end Sys2Proof.Machine
end

