-- ==== Sys2Proof/Proofs/VatsReady.lean ====
section
/-! PROOFS. The invariant that holds inside a step: the vat records are sound, and no entry of an arbiter's lists and no
carriage names a VACANT vat, so that a grant changes a field of a record that may hold it. -/

namespace Sys2Proof.Machine

/-! ### Takes: all that the banks' looks do to vat records -/

/-- Every vat record of `t` is that of `s`, but for FILL-QUEUED vats that have become FILLING (R24). -/
def TakesOnly (s t : State) : Prop :=
  ∀ v, t.vat v = s.vat v ∨ ((s.vat v).stage = .fillQueued ∧ t.vat v = { s.vat v with stage := .filling })

theorem TakesOnly.of_vats {s t : State} (h : t.vats = s.vats) : TakesOnly s t := fun v => .inl (by simp [State.vat, h])

theorem TakesOnly.trans {s t u : State} (h : TakesOnly s t) (h' : TakesOnly t u) : TakesOnly s u := by
  intro v
  rcases h' v with e' | ⟨q', e'⟩
  · rw [e']
    exact h v
  · rcases h v with e | ⟨q, e⟩
    · rw [e', e]
      exact .inr ⟨e ▸ q', rfl⟩
    · rw [e] at q'
      cases q'

theorem TakesOnly.reportTake (s : State) (b : Bank) (e : Transfer) : TakesOnly s (s.reportTake b e) := by
  unfold State.reportTake
  split
  · exact .of_vats rfl
  · intro v
    rw [State.raise_vat]
    by_cases hv : v = e.vat
    · subst hv
      rw [State.modVat_vat_same]
      split
      · rename_i hq
        exact .inr ⟨hq, rfl⟩
      · exact .inl rfl
    · exact .inl (State.modVat_vat_ne _ _ hv)

theorem TakesOnly.parkLook (s : State) (b : Bank) : TakesOnly s (s.parkLook b) := by
  unfold State.parkLook
  split <;> exact .of_vats rfl

theorem TakesOnly.takeTransfer (s : State) (b : Bank) (e : Transfer) (rest : List Transfer) :
    TakesOnly s (s.takeTransfer b e rest) := TakesOnly.trans (.of_vats rfl) (.reportTake _ b e)

theorem TakesOnly.hitTransfer (s : State) (b : Bank) (e : Transfer) (rest : List Transfer) :
    TakesOnly s (s.hitTransfer b e rest) := TakesOnly.trans (.of_vats rfl) (.reportTake _ b e)

theorem TakesOnly.bankLook (s : State) (b : Bank) : TakesOnly s (s.bankLook b) := by
  unfold State.bankLook
  split
  · split
    · exact .of_vats rfl
    · split_ifs
      · exact .takeTransfer s b _ _
      · exact .hitTransfer s b _ _
      · exact .of_vats rfl
  · exact .of_vats rfl

theorem TakesOnly.enterReady (s : State) (b : Bank) : TakesOnly s (s.enterReady b) := by
  unfold State.enterReady
  refine TakesOnly.trans ?_ (.parkLook _ b)
  split
  · exact .of_vats rfl
  · exact TakesOnly.trans (.of_vats rfl) (.bankLook _ b)

theorem TakesOnly.afterTransfer (s : State) (b : Bank) : TakesOnly s (s.afterTransfer b) := by
  unfold State.afterTransfer
  split
  · exact .of_vats rfl
  · exact .bankLook s b

theorem TakesOnly.actOnRinse (s : State) (b : Bank) : TakesOnly s (s.actOnRinse b) := by
  unfold State.actOnRinse
  split <;> exact .of_vats rfl

theorem TakesOnly.endDrain (s : State) (b : Bank) : TakesOnly s (s.endDrain b) := by
  unfold State.endDrain
  split
  · exact TakesOnly.trans (.of_vats rfl) (.enterReady _ b)
  · exact .of_vats rfl
  · exact .of_vats rfl
  · exact .of_vats rfl

theorem TakesOnly.beginDrain (s : State) (b : Bank) : TakesOnly s (s.beginDrain b) := by
  unfold State.beginDrain
  split
  · exact TakesOnly.trans (.of_vats rfl) (.endDrain _ b)
  · exact .of_vats rfl

theorem TakesOnly.joinTransfer (s : State) (b : Bank) (e : Transfer) : TakesOnly s (s.joinTransfer b e) := by
  unfold State.joinTransfer
  dsimp only
  split
  · exact .of_vats rfl
  · exact TakesOnly.trans (t := s.modBank b fun k => { k with list := k.list ++ [e] }) (.of_vats rfl)
      (TakesOnly.trans (.bankLook _ b) (.parkLook _ b))

theorem TakesOnly.parkLooks (s : State) (bs : List Bank) : TakesOnly s (s.parkLooks bs) :=
  .of_vats (by rw [State.parkLooks_frame])

theorem TakesOnly.forEachFreely {s : State} {α : Type} {l : List α} {f : α → State → State}
    (h : ∀ x t, TakesOnly t (f x t)) : TakesOnly s (s.forEachFreely l f) :=
  State.forEachFreely_keeps (TakesOnly s) s l f (.of_vats rfl) (fun _ => .of_vats rfl) fun x _ t ht => ht.trans (h x t)

theorem TakesOnly.bankLooks (s : State) (becomes : Transfer → Bool) (bs : List Bank) :
    TakesOnly s (s.bankLooks becomes bs) := by
  refine TakesOnly.trans (.forEachFreely fun b t => ?_) (.parkLooks _ bs)
  split
  · exact .of_vats rfl
  · exact .bankLook t b

/-! ### The invariant inside a step -/

/-- The vat records are sound, and no cut entry, dump entry or carriage names a VACANT vat. -/
structure VatsReady (s : State) : Prop where
  sound : VatsHold s
  cuts : ∀ e ∈ s.urgent ++ s.openList, (s.vat e.vat).stage ≠ .vacant
  dumps : ∀ e ∈ s.lateList ++ s.routine, (s.vat e.vat).stage ≠ .vacant
  carried : ∀ c v, (s.carriage c).vat = some v → (s.vat v).stage ≠ .vacant

theorem TakesOnly.stage {s t : State} (h : TakesOnly s t) {v : Vat} (hv : (s.vat v).stage ≠ .vacant) :
    (t.vat v).stage ≠ .vacant := by
  rcases h v with e | ⟨-, e⟩
  · rwa [e]
  · simp [e]

theorem TakesOnly.vatsHold {s t : State} (h : TakesOnly s t) (hs : VatsHold s) : VatsHold t := by
  intro v
  rcases h v with e | ⟨q, e⟩
  · rw [e]
    exact hs v
  · rw [e]
    exact (hs v).filling q

/-- The banks' work keeps the invariant when all it does to vats is to take. -/
theorem TakesOnly.ready {s t : State} (h : TakesOnly s t) (hb : BanksWork s t) (hs : VatsReady s) : VatsReady t := by
  have hf := hb.frame
  refine ⟨h.vatsHold hs.sound, fun e he => h.stage (hs.cuts e ?_), fun e he => h.stage (hs.dumps e ?_), fun c v hc =>
    h.stage (hs.carried c v ?_)⟩
  · rw [hf] at he; exact he
  · rw [hf] at he; exact he
  · rw [hf] at hc; exact hc

/-- A state with the same vats, lists and carriages. -/
theorem VatsReady.congr {s t : State} (h : VatsReady s) (hv : t.vats = s.vats) (hu : t.urgent = s.urgent)
    (ho : t.openList = s.openList) (hl : t.lateList = s.lateList) (hr : t.routine = s.routine)
    (hc : t.carriages = s.carriages) : VatsReady t := by
  obtain ⟨h₁, h₂, h₃, h₄⟩ := h
  constructor
  · simpa [VatsHold, State.vat, hv] using h₁
  · simpa [State.vat, hv, hu, ho] using h₂
  · simpa [State.vat, hv, hl, hr] using h₃
  · simpa [State.vat, State.carriage, hv, hc] using h₄

/-- One vat record changed to a sound one, that is VACANT only if it was. -/
theorem VatsHold.modVat {s : State} (h : VatsHold s) (v : Vat) {f : VatRecord → VatRecord}
    (hf : (f (s.vat v)).Sound) : VatsHold (s.modVat v f) := by
  intro w
  by_cases hw : w = v
  · subst hw; simpa using hf
  · simpa [hw] using h w

theorem State.modVat_stage {s : State} {v w : Vat} {f : VatRecord → VatRecord}
    (hn : (s.vat v).stage ≠ .vacant → (f (s.vat v)).stage ≠ .vacant) (hw : (s.vat w).stage ≠ .vacant) :
    ((s.modVat v f).vat w).stage ≠ .vacant := by
  by_cases h : w = v
  · subst h; simpa using hn hw
  · simpa [h] using hw

theorem VatsReady.modVat {s : State} (h : VatsReady s) (v : Vat) {f : VatRecord → VatRecord}
    (hf : (f (s.vat v)).Sound) (hn : (s.vat v).stage ≠ .vacant → (f (s.vat v)).stage ≠ .vacant) :
    VatsReady (s.modVat v f) :=
  ⟨h.sound.modVat v hf, fun e he => State.modVat_stage hn (h.cuts e he), fun e he => State.modVat_stage hn (h.dumps e he),
    fun c w hc => State.modVat_stage hn (h.carried c w hc)⟩

theorem VatsReady.raise {s : State} (h : VatsReady s) (l : Link) (n : Notice) : VatsReady (s.raise l n) :=
  h.congr rfl rfl rfl rfl rfl rfl

theorem VatsReady.modCarriage {s : State} (h : VatsReady s) (c : Carriage) {f : CarriageRecord → CarriageRecord}
    (hf : ∀ v, (f (s.carriage c)).vat = some v → (s.vat v).stage ≠ .vacant) : VatsReady (s.modCarriage c f) := by
  refine ⟨h.sound, h.cuts, h.dumps, fun c' v hc => ?_⟩
  by_cases hc' : c' = c
  · subst hc'
    exact hf v (by simpa using hc)
  · exact h.carried c' v (by simpa [hc'] using hc)

/-- The cut lists changed, with no entry for a VACANT vat. -/
theorem VatsReady.cutLists {s t : State} (h : VatsReady s) (hv : t.vats = s.vats) (hl : t.lateList = s.lateList)
    (hr : t.routine = s.routine) (hc : t.carriages = s.carriages)
    (he : ∀ e ∈ t.urgent ++ t.openList, (s.vat e.vat).stage ≠ .vacant) : VatsReady t := by
  obtain ⟨h₁, -, h₃, h₄⟩ := h
  constructor
  · simpa [VatsHold, State.vat, hv] using h₁
  · simpa [State.vat, hv] using he
  · simpa [State.vat, hv, hl, hr] using h₃
  · simpa [State.vat, State.carriage, hv, hc] using h₄

/-- The dump lists changed, with no entry for a VACANT vat. -/
theorem VatsReady.dumpLists {s t : State} (h : VatsReady s) (hv : t.vats = s.vats) (hu : t.urgent = s.urgent)
    (ho : t.openList = s.openList) (hc : t.carriages = s.carriages)
    (he : ∀ e ∈ t.lateList ++ t.routine, (s.vat e.vat).stage ≠ .vacant) : VatsReady t := by
  obtain ⟨h₁, h₂, -, h₄⟩ := h
  constructor
  · simpa [VatsHold, State.vat, hv] using h₁
  · simpa [State.vat, hv, hu, ho] using h₂
  · simpa [State.vat, hv] using he
  · simpa [State.vat, State.carriage, hv, hc] using h₄

/-! ### The carriage arbiter keeps it -/

@[simp] theorem State.withoutChosen_vat (s : State) (x : CutChoice) (v : Vat) : (s.withoutChosen x).vat v = s.vat v := by
  unfold State.withoutChosen
  split <;> rfl

theorem VatsReady.withoutChosen {s : State} (h : VatsReady s) {x : CutChoice} (hx : s.chooseCut = some x) :
    VatsReady (s.withoutChosen x) := by
  refine h.cutLists ?_ ?_ ?_ ?_ fun e he => h.cuts e ((State.chooseCut_mem hx).2 e he)
  all_goals unfold State.withoutChosen; split <;> rfl

theorem VatsReady.applyCutGrant {s : State} (h : VatsReady s) {x : CutChoice} (hx : s.chooseCut = some x)
    (c : Carriage) : VatsReady (s.applyCutGrant x c) := by
  have hn := h.cuts _ (State.chooseCut_mem hx).1
  have hv : (s.withoutChosen x).vat x.entry.vat = s.vat x.entry.vat := s.withoutChosen_vat x _
  unfold State.applyCutGrant
  refine VatsReady.raise (VatsReady.modVat (VatsReady.modCarriage ?_ c ?_) _ ?_ ?_) _ _
  · exact (h.withoutChosen hx).congr rfl rfl rfl rfl rfl rfl
  · rintro v ⟨⟩
    exact hv ▸ hn
  · exact ((h.withoutChosen hx).sound x.entry.vat).withCarriage (hv ▸ hn) (some c)
  · exact fun h => h

theorem VatsReady.cutLook {s : State} (h : VatsReady s) : VatsReady s.cutLook :=
  State.cutLook_keeps h fun _ _ c ht hx _ => ht.applyCutGrant hx c

theorem VatsReady.joinCut {s : State} (h : VatsReady s) {v : Vat} (hv : (s.vat v).stage ≠ .vacant) :
    VatsReady (s.joinCut v) := by
  have he := h.cuts
  unfold State.joinCut
  split
  · refine h.cutLists rfl rfl rfl rfl fun e hm => ?_
    simp only [List.append_assoc, List.mem_append, List.mem_singleton] at hm he
    rcases hm with hm | rfl | hm
    · exact he e (.inl hm)
    · exact hv
    · exact he e (.inr hm)
  · obtain ⟨before, behind, ho, hp, -, -⟩ := putBefore_eq (s.opensLater v) (s.cutEntry v) s.openList
    refine h.cutLists rfl rfl rfl rfl fun e hm => ?_
    simp only [hp, List.mem_append, List.mem_cons] at hm
    simp only [ho, List.mem_append] at he
    rcases hm with hm | hm | rfl | hm
    · exact he e (.inl hm)
    · exact he e (.inr (.inl hm))
    · exact hv
    · exact he e (.inr (.inr hm))

theorem VatsReady.returnCut {s : State} (h : VatsReady s) {v : Vat} (hv : (s.vat v).stage ≠ .vacant) :
    VatsReady (s.returnCut v) := by
  have he := h.cuts
  unfold State.returnCut
  split
  all_goals
    refine h.cutLists rfl rfl rfl rfl fun e hm => ?_
    simp only [List.mem_append, List.mem_cons] at hm he
    rcases hm with hm | hm
  · rcases hm with rfl | hm
    · exact hv
    · exact he e (.inl hm)
  · exact he e (.inr hm)
  · exact he e (.inl hm)
  · rcases hm with rfl | hm
    · exact hv
    · exact he e (.inr hm)

theorem VatsReady.leaveCut {s : State} (h : VatsReady s) (v : Vat) : VatsReady (s.leaveCut v) :=
  h.cutLists rfl rfl rfl rfl fun e hm => h.cuts e (by
    rw [List.mem_append] at hm ⊢
    exact hm.imp (fun h => (dropOne_sublist _ _).mem h) fun h => (dropOne_sublist _ _).mem h)

/-- A vat whose record stays sound in CUT-WINDOW enters the cut window. -/
theorem VatsReady.enterCutWindow {s : State} (h : VatsReady s) {v : Vat}
    (hs : ({ s.vat v with stage := .cutWindow, stepPending := .nothing } : VatRecord).Sound) :
    VatsReady (s.enterCutWindow v) :=
  (h.modVat v hs (by simp)).joinCut (by simp)

theorem VatsReady.moveUrgent {s t : State} {v : Vat} (h : VatsReady s) (hm : s.moveUrgent v = some t) : VatsReady t := by
  have he := h.cuts
  unfold State.moveUrgent at hm
  split at hm
  · rename_i e rest hp
    cases hm
    refine h.cutLists rfl rfl rfl rfl fun y hy => he y ?_
    simp only [List.append_assoc, List.mem_append, List.mem_singleton] at hy ⊢
    rw [mem_of_pick? hp]
    tauto
  · cases hm

theorem VatsReady.moveAllUrgent {s : State} (h : VatsReady s) : VatsReady s.moveAllUrgent :=
  h.cutLists rfl rfl rfl rfl fun y hy => h.cuts y (by
    simp only [State.moveAllUrgent, List.append_assoc, List.mem_append, List.mem_filter] at hy ⊢
    tauto)

theorem CarriageRecord.withdrawn_vat (k : CarriageRecord) (clock : Nat) (faulted : Bool) :
    (k.withdrawn clock faulted).vat = none := by
  unfold CarriageRecord.withdrawn
  dsimp only
  split <;> rfl

/-- The order of a carriage for vat `v` withdrawn by a cause other than its cut-close. -/
theorem VatsReady.withdrawCut {s : State} (h : VatsReady s) (c : Carriage) {v : Vat} {cause : WithdrawCause}
    (hcause : cause ≠ .cutClose) (hv : (s.vat v).stage ≠ .vacant) (faulted : Bool) :
    VatsReady (s.withdrawCut c v cause faulted) := by
  unfold State.withdrawCut
  dsimp only
  rw [if_neg hcause]
  refine VatsReady.raise (VatsReady.returnCut (VatsReady.modVat (h.modCarriage c ?_) v
    ((h.sound v).withCarriage hv none) fun h => h) (by simpa using hv)) _ _
  exact fun w hw => absurd (hw.symm.trans (CarriageRecord.withdrawn_vat _ _ _)) (by simp)

/-- The order of a carriage for vat `v` withdrawn by its cut-close: the vat becomes OVERSET (R33). -/
theorem VatsReady.withdrawCutClose {s : State} (h : VatsReady s) (c : Carriage) {v : Vat}
    (hs : ({ s.vat v with stage := .overset, stepPending := .nothing, carriage := none } : VatRecord).Sound)
    (faulted : Bool) : VatsReady (s.withdrawCut c v .cutClose faulted) := by
  unfold State.withdrawCut State.becomeOverset
  dsimp only
  rw [if_pos rfl, State.modVat_modVat]
  have hc : VatsReady (s.modCarriage c fun k => k.withdrawn s.clock faulted) :=
    h.modCarriage c fun w hw => absurd (hw.symm.trans (CarriageRecord.withdrawn_vat _ _ _)) (by simp)
  have hv := hc.modVat v (f := fun r => { r with stage := .overset, stepPending := .nothing, carriage := none }) hs (by simp)
  refine VatsReady.raise ?_ _ _
  exact hv.congr rfl rfl rfl rfl rfl rfl

theorem VatsReady.withdrawOrder {s : State} (h : VatsReady s) (c : Carriage) {cause : WithdrawCause}
    (hcause : cause ≠ .cutClose) : VatsReady (s.withdrawOrder c cause) := by
  unfold State.withdrawOrder
  split
  · rename_i v _ hv
    exact h.withdrawCut c hcause (h.carried c v hv) _
  · exact h

theorem VatsReady.withdrawForAbsence {s : State} (h : VatsReady s) : VatsReady s.withdrawForAbsence := by
  unfold State.withdrawForAbsence
  split <;> exact (h.withdrawOrder _ (by decide)).withdrawOrder _ (by decide)

/-! ### The curd line arbiter keeps it -/

theorem VatsReady.applyLineGrant {s : State} (h : VatsReady s) {x : DumpChoice} (hx : s.chooseDump = some x) :
    VatsReady (s.applyLineGrant x) := by
  obtain ⟨he, hr⟩ := State.chooseDump_mem hx
  have hn := h.dumps _ he
  have hw : VatsReady (s.withoutDump x) := by
    refine h.dumpLists ?_ ?_ ?_ ?_ fun e he => h.dumps e (hr e he)
    all_goals unfold State.withoutDump; split <;> rfl
  have hv : (s.withoutDump x).vat x.entry.vat = s.vat x.entry.vat := by unfold State.withoutDump; split <;> rfl
  unfold State.applyLineGrant
  refine VatsReady.raise (VatsReady.modVat ?_ _ ?_ ?_) _ _
  · exact hw.congr rfl rfl rfl rfl rfl rfl
  · exact (hw.sound x.entry.vat).withLot (hv ▸ hn) _
  · exact fun h => h

theorem VatsReady.lineLook {s : State} (h : VatsReady s) : VatsReady s.lineLook := by
  rcases s.lineLook_cases with e | ⟨-, x, hx, e⟩
  · rwa [e]
  · rw [e]
    exact h.applyLineGrant hx

theorem VatsReady.joinDump {s : State} (h : VatsReady s) {v : Vat} (hv : (s.vat v).stage ≠ .vacant) (kind : EntryKind)
    (early : Bool) : VatsReady (s.joinDump v kind early) := by
  have he := h.dumps
  unfold State.joinDump
  split
  all_goals
    refine h.dumpLists rfl rfl rfl rfl fun e hm => ?_
    simp only [List.append_assoc, List.mem_append, List.mem_singleton] at hm he
    rcases hm with hm | hm | hm
  · exact he e (.inl hm)
  · exact hm ▸ hv
  · exact he e (.inr hm)
  · exact he e (.inl hm)
  · exact he e (.inr hm)
  · exact hm ▸ hv

theorem VatsReady.returnDump {s : State} (h : VatsReady s) {v : Vat} (hv : (s.vat v).stage ≠ .vacant)
    (kind : EntryKind) (early : Bool) : VatsReady (s.returnDump v kind early) := by
  have he := h.dumps
  unfold State.returnDump
  split
  all_goals
    refine h.dumpLists rfl rfl rfl rfl fun e hm => ?_
    simp only [List.mem_append, List.mem_cons] at hm he
    rcases hm with hm | hm
  · rcases hm with hm | hm
    · exact hm ▸ hv
    · exact he e (.inl hm)
  · exact he e (.inr hm)
  · exact he e (.inl hm)
  · rcases hm with hm | hm
    · exact hm ▸ hv
    · exact he e (.inr hm)

/-- A vat whose record stays sound in DUMP-QUEUED joins the dump queue. -/
theorem VatsReady.queueDump {s : State} (h : VatsReady s) {v : Vat}
    (hs : ({ s.vat v with stage := .dumpQueued, stepPending := .nothing } : VatRecord).Sound) (kind : EntryKind)
    (early : Bool) : VatsReady (s.queueDump v kind early) :=
  (h.modVat v hs (by simp)).joinDump (by simp) kind early

theorem VatsReady.queueRoutine {s : State} (h : VatsReady s) {v : Vat}
    (hs : ({ s.vat v with stage := .dumpQueued, stepPending := .nothing } : VatRecord).Sound) :
    VatsReady (s.queueRoutine v) := by
  have hm := h.modVat v (f := fun r => { r with stage := .dumpQueued, stepPending := .nothing }) hs (by simp)
  refine hm.dumpLists rfl rfl rfl rfl fun e he => ?_
  simp only [State.queueRoutine, ← List.append_assoc] at he
  rcases List.mem_append.mp he with he | he
  · exact hm.dumps e he
  · rw [List.mem_singleton.mp he]
    simp [State.dumpEntry]

theorem VatsReady.moveLate {s t : State} {v : Vat} (h : VatsReady s) (hm : s.moveLate v = some t) : VatsReady t := by
  have he := h.dumps
  unfold State.moveLate at hm
  split at hm
  · rename_i e rest hp
    cases hm
    refine h.dumpLists rfl rfl rfl rfl fun y hy => he y ?_
    simp only [List.append_assoc, List.mem_append, List.mem_singleton] at hy ⊢
    rw [mem_of_pick? hp]
    tauto
  · cases hm

theorem VatsReady.withdrawDump {s : State} (h : VatsReady s) {x : Lot} (hv : (s.vat x.vat).stage ≠ .vacant)
    (cause : DumpWithdrawCause) : VatsReady (s.withdrawDump x cause) := by
  unfold State.withdrawDump
  refine VatsReady.raise (VatsReady.returnDump (VatsReady.modVat ?_ x.vat ?_ ?_) ?_ _ _) _ _
  · exact h.congr rfl rfl rfl rfl rfl rfl
  · exact (h.sound x.vat).withLot hv none
  · exact fun h => h
  · rw [State.modVat_vat_same]
    exact hv

/-! ### Heal-min, and the advance that waits, keep it -/

theorem VatsReady.applyHealMin {s : State} (h : VatsReady s) {v : Vat} (hs : (s.vat v).stage = .working) :
    VatsReady (s.applyHealMin v) := by
  have hq := (h.sound v).dumpQueued (by simp [hs])
  unfold State.applyHealMin
  split
  · rename_i hm
    exact (h.modVat v ((h.sound v).pendingHealMin hs hm) fun h => h).raise _ _
  · split
    · exact (h.queueRoutine hq).lineLook
    · exact (h.queueDump hq _ _).lineLook

theorem VatsReady.healMinAtOnce {s : State} (h : VatsReady s) (v : Vat) : VatsReady (s.healMinAtOnce v) := by
  unfold State.healMinAtOnce
  split
  · rename_i hd
    simp only [State.healMinDue, Bool.and_eq_true, decide_eq_true_eq] at hd
    exact h.applyHealMin hd.1.1
  · exact h

/-- The advance that waits is made in a vat whose record allows it. -/
theorem VatsReady.advance {s : State} (h : VatsReady s) (v : Vat) : VatsReady (s.advance v) := by
  unfold State.advance
  split
  · exact h
  · rename_i hp
    exact (h.enterCutWindow ((h.sound v).cutWindow (.inl ((h.sound v).cutOpenPending hp).1))).cutLook
  · rename_i hp
    exact (h.queueDump ((h.sound v).dumpQueued (by simp [((h.sound v).healMinPending hp).1])) _ _).lineLook

/-- Step mode goes off, and the advance that waits is made (R15). -/
theorem VatsReady.stepModeOff {s : State} (h : VatsReady s) (v : Vat) :
    VatsReady ((s.modVat v fun r => { r with stepMode := false }).advance v) := by
  have hv := h.sound v
  cases hp : (s.vat v).stepPending with
  | nothing =>
    have hadv : (s.modVat v fun r => { r with stepMode := false }).advance v =
        s.modVat v fun r => { r with stepMode := false } := by simp [State.advance, hp]
    rw [hadv]
    exact h.modVat v (hv.stepModeOff hp) fun h => h
  | cutOpen =>
    have hadv : (s.modVat v fun r => { r with stepMode := false }).advance v =
        (((s.modVat v fun r => { r with stepMode := false, stage := .cutWindow, stepPending := .nothing }).joinCut
          v)).cutLook := by simp [State.advance, hp, State.enterCutWindow, State.modVat_modVat]
    rw [hadv]
    refine ((h.modVat v ?_ (by simp)).joinCut (by simp)).cutLook
    exact (hv.cutWindow (.inl (hv.cutOpenPending hp).1)).stepModeOff rfl
  | healMin =>
    have hadv : (s.modVat v fun r => { r with stepMode := false }).advance v =
        ((s.modVat v fun r => { r with stepMode := false, stage := .dumpQueued, stepPending := .nothing }).joinDump v
          .normal false).lineLook := by simp [State.advance, hp, State.queueDump, State.modVat_modVat]
    rw [hadv]
    refine ((h.modVat v ?_ (by simp)).joinDump (by simp) _ _).lineLook
    exact (hv.dumpQueued (by simp [(hv.healMinPending hp).1])).stepModeOff rfl

end Sys2Proof.Machine
end

