-- ==== Sys2Proof/Proofs/Claims.lean ====
section
/-! PROOFS. What R21 says of the vats that other records name: the stages that a place gives, and with them the vats of the
lists, the carriages, the banks' transfers and the lots. -/

namespace Sys2Proof.Machine

/-- The stages of the vats that may stand in a place (R21). -/
def Place.stages : Place → List Stage
  | .bankList _ .fill => [.fillQueued, .filling]
  | .bankList _ .wash => [.washing]
  | .bankTransfer _ .fill => [.filling]
  | .bankTransfer _ .wash => [.washing]
  | .cutList => [.cutWindow]
  | .carriage _ => [.cutWindow, .cutting]
  | .dumpList => [.dumpQueued]
  | .line => [.dumpQueued, .dumping]

/-- A vat that a place names is in a stage of that place. -/
theorem State.claimed.stage_mem {s : State} {v : Vat} (h : s.claimed v) {p : Place} (hp : p ∈ s.places v) :
    (s.vat v).stage ∈ p.stages := by
  have one : ∀ q, s.places v = [q] → p = q := fun q hq => by simpa [hq] using hp
  unfold State.claimed State.inBank at h
  dsimp only at h
  split at h <;> rename_i hst <;> rw [hst]
  · rw [h.1] at hp; cases hp
  · rw [h.1] at hp; cases hp
  · rw [h.1] at hp; cases hp
  · rw [h.1] at hp; cases hp
  · rw [h.1] at hp; cases hp
  · rw [one _ h.1]; simp [Place.stages]
  · rcases h.1 with h | h <;> rw [one _ h] <;> simp [Place.stages]
  · rcases h.1 with h | h <;> rw [one _ h] <;> simp [Place.stages]
  · rcases h.2 with h | ⟨c, h, -⟩
    · rw [one _ h.1]; simp [Place.stages]
    · rw [one _ h]; simp [Place.stages]
  · obtain ⟨-, c, h, -⟩ := h
    rw [one _ h]; simp [Place.stages]
  · rcases h.2 with h | h <;> rw [one _ h.1] <;> simp [Place.stages]
  · rw [one _ h.2.1]; simp [Place.stages]

/-! ### Where each record names a vat -/

theorem State.cutList_mem_places {s : State} {e : CutEntry} (h : e ∈ s.urgent ++ s.openList) :
    Place.cutList ∈ s.places e.vat := by
  rw [List.mem_append] at h
  simp only [State.places, List.mem_append, List.mem_map, List.mem_filter, decide_eq_true_eq]
  exact .inl (.inl (.inl (.inr ⟨e, ⟨h, rfl⟩, trivial⟩)))

theorem State.dumpList_mem_places {s : State} {e : DumpEntry} (h : e ∈ s.lateList ++ s.routine) :
    Place.dumpList ∈ s.places e.vat := by
  rw [List.mem_append] at h
  simp only [State.places, List.mem_append, List.mem_map, List.mem_filter, decide_eq_true_eq]
  exact .inl (.inr ⟨e, ⟨h, rfl⟩, trivial⟩)

theorem State.carriage_mem_places {s : State} {c : Carriage} {v : Vat} (h : (s.carriage c).vat = some v) :
    Place.carriage c ∈ s.places v := by
  have hc : c ∈ allCarriages := by fin_cases c <;> decide
  simp only [State.places, List.mem_append, List.mem_map, List.mem_filter, decide_eq_true_eq]
  exact .inl (.inl (.inr ⟨c, ⟨hc, h⟩, rfl⟩))

theorem State.transfer_mem_places {s : State} {b : Bank} {c : Current} (h : (s.bank b).current = some c) :
    Place.bankTransfer b c.entry.kind ∈ s.places c.entry.vat := by
  have hb : b ∈ allBanks := by fin_cases b <;> decide
  simp only [State.places, List.mem_append, List.mem_map, List.mem_filter, List.mem_flatMap, decide_eq_true_eq]
  exact .inl (.inl (.inl (.inl (.inr ⟨b, hb, c, ⟨by simp [h], rfl⟩, rfl⟩))))

theorem State.line_mem_places {s : State} {x : Lot} (h : s.currentLot = some x) : Place.line ∈ s.places x.vat := by
  simp only [State.places, List.mem_append, List.mem_map, List.mem_filter, decide_eq_true_eq]
  exact .inr ⟨x, ⟨by simp [h], rfl⟩, trivial⟩

/-! ### The stages of the vats that the records name -/

/-- What the claims say of the vats that cut entries, dump entries, carriages, fills and lots name. -/
structure VatsKnown (s : State) : Prop where
  cuts : ∀ e ∈ s.urgent ++ s.openList, (s.vat e.vat).stage = .cutWindow
  dumps : ∀ e ∈ s.lateList ++ s.routine, (s.vat e.vat).stage = .dumpQueued
  carried : ∀ c v, (s.carriage c).vat = some v → (s.vat v).stage = .cutWindow ∨ (s.vat v).stage = .cutting
  fed : ∀ b c, (s.bank b).current = some c → c.entry.kind = .fill → (s.vat c.entry.vat).stage = .filling
  cancelled : ∀ b c, (s.bank b).current = some c → c.cancel = true → c.entry.kind = .fill
  current : ∀ x, s.currentLot = some x → (s.vat x.vat).stage = .dumpQueued ∨ (s.vat x.vat).stage = .dumping
  dumped : ∀ n x, s.findLot n = some x → x.state ≠ .pressing →
    (s.vat x.vat).stage = .dumpQueued ∨ (s.vat x.vat).stage = .dumping

theorem RoomHolds.known {s : State} (h : RoomHolds s) : VatsKnown s := by
  obtain ⟨hc, hl, -, -, -, -, -, hx⟩ := h
  have line : ∀ x, s.currentLot = some x → (s.vat x.vat).stage = .dumpQueued ∨ (s.vat x.vat).stage = .dumping :=
    fun x hx => by simpa [Place.stages] using (hc x.vat).stage_mem (State.line_mem_places hx)
  refine ⟨fun e he => ?_, fun e he => ?_, fun c v hv => ?_, fun b c hb hk => ?_, hx, line, fun n x hn hp => line x ?_⟩
  · simpa [Place.stages] using (hc e.vat).stage_mem (State.cutList_mem_places he)
  · simpa [Place.stages] using (hc e.vat).stage_mem (State.dumpList_mem_places he)
  · simpa [Place.stages] using (hc v).stage_mem (State.carriage_mem_places hv)
  · simpa [Place.stages, hk] using (hc c.entry.vat).stage_mem (State.transfer_mem_places hb)
  · have hm : x ∈ s.lots := List.mem_of_find?_eq_some hn
    have hnum : x.number = n := by simpa using List.find?_some hn
    simp [State.currentLot, hl.current x hm hp, hnum, hn]

/-- The invariant inside a step holds at its beginning. -/
theorem VatsKnown.ready {s : State} (h : VatsKnown s) (hs : VatsHold s) : VatsReady s :=
  ⟨hs, fun e he => by simp [h.cuts e he], fun e he => by simp [h.dumps e he],
    fun c v hv => by rcases h.carried c v hv with e | e <;> simp [e]⟩

end Sys2Proof.Machine
end

