-- ==== Sys2Proof/Proofs/VatInvariant.lean ====
section
/-! PROOFS. Every step keeps the vat records sound (O13): the effects of the requests, the events of the banks, the arbiters
and the links, and the resets, each from the invariant inside a step and what R21 says of the vats it changes. -/

namespace Sys2Proof.Machine

/-! ### The banks' events -/

theorem VatsHold.of_vats {s t : State} (h : VatsHold s) (hv : t.vats = s.vats) : VatsHold t := by
  simpa [VatsHold, State.vat, hv] using h

theorem VatsHold.clearVat {s : State} (h : VatsHold s) (v : Vat) : VatsHold (s.clearVat v) := h.modVat v (.cleared _)

theorem VatsHold.endFill {s : State} (h : VatsHold s) {v : Vat} (hv : (s.vat v).stage = .filling) :
    VatsHold (s.endFill v) := by
  unfold State.endFill
  split
  · exact h.modVat v ((h v).charged hv)
  · exact h.clearVat v

theorem VatsHold.openPath {s : State} (h : VatsHold s) (hk : VatsKnown s) (b : Bank) : VatsHold (s.openPath b) := by
  unfold State.openPath
  dsimp only
  split
  · rename_i c hc
    split
    · rename_i hx
      have filling := hk.fed b c hc (hk.cancelled b c hc hx)
      refine (TakesOnly.afterTransfer _ b).vatsHold ?_
      exact VatsHold.endFill (h.of_vats (by rfl)) filling
    · exact h.of_vats rfl
  · exact h.of_vats rfl

theorem VatsHold.faultBank {s : State} (h : VatsHold s) (hk : VatsKnown s) (b : Bank) (cause : BankFaultCause) :
    VatsHold (s.faultBank b cause) := by
  have hl : VatsHold (s.loseTransfer b) := by
    unfold State.loseTransfer
    split
    · exact h
    · rename_i c hc
      split
      · rename_i hx
        exact h.endFill (hk.fed b c hc (hk.cancelled b c hc hx))
      · exact h.of_vats rfl
  exact hl.of_vats rfl

theorem VatsHold.applyProvedRise {s : State} (h : VatsHold s) (hk : VatsKnown s) (b : Bank) :
    VatsHold (s.applyProvedRise b) := by
  unfold State.applyProvedRise
  split
  · exact h.openPath hk b
  · split
    · exact h.faultBank hk b _
    · exact h
  · split
    · exact h.faultBank hk b _
    · exact h
  · exact h.faultBank hk b _
  · exact h.faultBank hk b _
  · exact h.faultBank hk b _
  · exact h.faultBank hk b _
  · exact h
  · exact h

theorem VatsHold.applyProvedFall {s : State} (h : VatsHold s) (hk : VatsKnown s) (b : Bank) :
    VatsHold (s.applyProvedFall b) := by
  unfold State.applyProvedFall
  split
  · exact h.faultBank hk b _
  · split
    · exact (TakesOnly.beginDrain s b).vatsHold h
    · exact h
  · split
    · exact h.of_vats rfl
    · exact h
  · exact h

/-- A fill that reaches its target charges its vat, and a wash clears its own (R25, R44). -/
theorem VatsHold.reportComplete {s : State} (h : VatsHold s) {e : Transfer}
    (hv : e.kind = .fill → (s.vat e.vat).stage = .filling) : VatsHold (s.reportComplete e) := by
  unfold State.reportComplete
  dsimp only
  split
  · rename_i hk
    exact (h.modVat e.vat (f := fun r => { r with stage := .charged }) ((h e.vat).charged (hv hk))).of_vats rfl
  · exact (h.clearVat e.vat).of_vats rfl

theorem VatsHold.meter {s : State} (h : VatsHold s) (hk : VatsKnown s) {b : Bank} {c : Current}
    (hc : (s.bank b).current = some c) : VatsHold (s.meter b c) := by
  have hfed := hk.fed b c hc
  have hadd : VatsHold (s.addFilled c s.settings.litresPerPulse) ∧
      (c.entry.kind = .fill → ((s.addFilled c s.settings.litresPerPulse).vat c.entry.vat).stage = .filling) := by
    unfold State.addFilled
    split
    · rename_i hkind
      exact ⟨h.modVat _ ((h _).withFilled (by simp [hfed hkind]) _), fun _ => by simp [hfed hkind]⟩
    · exact ⟨h, hfed⟩
  unfold State.meter
  dsimp only
  split
  · refine (TakesOnly.afterTransfer _ b).vatsHold ?_
    exact VatsHold.reportComplete (hadd.1.of_vats (by rfl)) hadd.2
  · exact hadd.1.of_vats rfl

theorem VatsHold.applyFlow {s : State} (h : VatsHold s) (hk : VatsKnown s) (b : Bank) : VatsHold (s.applyFlow b) := by
  unfold State.applyFlow
  split
  · exact h
  · split
    · rename_i c hc
      split
      · exact h.meter hk hc
      · exact h.faultBank hk b _
    · exact h.faultBank hk b _

theorem TakesOnly.applyNoFlow (s : State) (b : Bank) : TakesOnly s (s.applyNoFlow b) := by
  unfold State.applyNoFlow
  split
  · exact .of_vats rfl
  · split <;> exact .of_vats rfl

theorem TakesOnly.applyFlushExpiry (s : State) (b : Bank) : TakesOnly s (s.applyFlushExpiry b) := by
  unfold State.applyFlushExpiry
  dsimp only
  split
  · exact .of_vats rfl
  · exact TakesOnly.trans (t := s.modBank b fun k => { k with rinsePending := false, rinseOverdue := false })
      (.of_vats rfl) (.enterReady _ b)

theorem TakesOnly.applyRinseMatch (s : State) (b : Bank) : TakesOnly s (s.applyRinseMatch b) := by
  unfold State.applyRinseMatch
  dsimp only
  split
  · exact .of_vats rfl
  · exact TakesOnly.trans (t := s.modBank b fun k => { k with rinseCount := 0, rinsePending := true })
      (.of_vats rfl) (.actOnRinse _ b)

/-! ### The arbiters' events -/

theorem VatsReady.applyCutOpen {s : State} (h : VatsReady s) {v : Vat} (hv : (s.vat v).stage = .setting) :
    VatsReady (s.applyCutOpen v) := by
  unfold State.applyCutOpen
  split
  · rename_i hm
    exact (h.modVat v ((h.sound v).pendingCutOpen hv hm) fun h => h).raise _ _
  · exact (h.enterCutWindow ((h.sound v).cutWindow (.inl hv))).cutLook

theorem VatsReady.applyUrgency {s : State} (h : VatsReady s) (v : Vat) : VatsReady (s.applyUrgency v) := by
  unfold State.applyUrgency
  split
  · rename_i t ht
    exact (h.moveUrgent ht).cutLook
  · exact h

theorem VatsReady.applyCutClose {s : State} (h : VatsReady s) {v : Vat}
    (hv : (s.vat v).stage = .setting ∨ (s.vat v).stage = .cutWindow) (hc : (s.vat v).cutClose.isSome) :
    VatsReady (s.applyCutClose v) := by
  have ho := (h.sound v).overset hv hc
  unfold State.applyCutClose
  split
  · rename_i c _
    exact (((h.withdrawCutClose c (ho.withCarriage (by simp) none) false).raise _ _).raise _ _).cutLook
  · exact (((h.leaveCut v).modVat v ho (by simp)).raise _ _).raise _ _

theorem VatsReady.applyHealMax {s : State} (h : VatsReady s) (v : Vat) : VatsReady (s.applyHealMax v) := by
  unfold State.applyHealMax
  split
  · rename_i hh
    simp only [State.healsTogether, decide_eq_true_eq] at hh
    exact h.modVat v ((h.sound v).withHealMaxFirst (by simp [hh.1]) true) fun h => h
  · split
    · rename_i t ht
      exact (h.moveLate ht).lineLook
    · exact h

theorem VatsReady.applyCutStartExpiry {s : State} (h : VatsReady s) (c : Carriage) :
    VatsReady (s.applyCutStartExpiry c) := by
  unfold State.applyCutStartExpiry
  split
  · exact h
  · rename_i v hv
    have hn := h.carried c v hv
    have hm : VatsReady (s.modCarriage c fun k => { k with missed := k.missed + 1 }) :=
      h.modCarriage c fun w hw => h.carried c w hw
    have hw := hm.withdrawCut c (v := v) (cause := .startLimit) (by decide) hn
      (decide (s.settings.strikes ≤ (s.carriage c).missed + 1))
    refine VatsReady.cutLook ?_
    split
    · exact (hw.raise _ _).raise _ _
    · exact hw

theorem VatsReady.applyDumpStartExpiry {s : State} (h : VatsReady s) (hk : VatsKnown s) :
    VatsReady s.applyDumpStartExpiry := by
  unfold State.applyDumpStartExpiry
  split
  · rename_i x hx
    exact (h.withdrawDump (by rcases hk.current x hx with e | e <;> simp [e]) _).lineLook
  · exact h

/-! ### The links' events -/

theorem VatsReady.modLink {s : State} (h : VatsReady s) (l : Link) (f : LinkUnit → LinkUnit) :
    VatsReady (s.modLink l f) := h.congr rfl rfl rfl rfl rfl rfl

theorem VatsReady.parkLooks {s : State} (h : VatsReady s) (bs : List Bank) : VatsReady (s.parkLooks bs) :=
  (TakesOnly.parkLooks s bs).ready (.parkLooks s bs) h

theorem VatsReady.bankLooks {s : State} (h : VatsReady s) (becomes : Transfer → Bool) (bs : List Bank) :
    VatsReady (s.bankLooks becomes bs) := (TakesOnly.bankLooks s becomes bs).ready (.bankLooks s becomes bs) h

theorem VatsReady.becomeAbsent {s : State} (h : VatsReady s) (l : Link) (cause : AbsentCause) :
    VatsReady (s.becomeAbsent l cause) := by
  have hr := (h.modLink l fun u => { u with presence := none }).raise .console (.stationAbsent l cause)
  unfold State.becomeAbsent
  split
  · cases l with
    | fill => exact hr.parkLooks _
    | cut => exact hr.withdrawForAbsence.cutLook
    | press => exact hr
    | console => exact hr
  · exact h

theorem VatsReady.heard {s : State} (h : VatsReady s) (l : Link) : VatsReady (s.heard l) := by
  have hr := (h.modLink l fun u => { u with presence := some 0 }).raise .console (.stationPresent l)
  unfold State.heard State.becomePresent
  split
  · exact h
  · split
    · exact h.modLink l _
    · cases l with
      | fill => exact hr.bankLooks _ _
      | cut => exact hr.cutLook
      | press => exact hr.lineLook
      | console => exact hr

theorem VatsReady.closeFrame {s : State} (h : VatsReady s) (l : Link) (f : OpenFrame) : VatsReady (s.closeFrame l f) := by
  unfold State.closeFrame
  split
  · exact h.modLink l _
  · exact ((h.modLink l _).heard l).modLink l _

theorem VatsReady.receive {s : State} (h : VatsReady s) (l : Link) (c : Character) : VatsReady (s.receive l c) := by
  unfold State.receive
  split
  · exact h
  · split
    · exact h.modLink l _
    · exact h
  · exact h.modLink l _
  · split
    · split
      · exact h.closeFrame l _
      · exact h.modLink l _
    · exact h.modLink l _

theorem VatsReady.lookAtRoom {s : State} (h : VatsReady s) (l : Link) : VatsReady (s.lookAtRoom l) := by
  cases l with
  | fill => exact h
  | cut => exact h.cutLook
  | press => exact h.lineLook
  | console => exact h

/-! ### The resets -/

theorem VatsHold.of_reset {t : State} (h : t.vats = State.reset.vats) : VatsHold t := by
  intro v
  have hv : t.vat v = VatRecord.reset v := by simp [State.vat, h, State.reset]
  rw [hv]
  exact .reset v

theorem VatsHold.restartNow (s : State) : VatsHold s.restartNow := by
  intro v
  have hv : s.restartNow.vat v = (s.vat v).cleared := by simp [State.restartNow, State.vat]
  rw [hv]
  exact .cleared _

theorem VatsHold.breakLine {s : State} (h : VatsReady s) (l : Link) : VatsHold (s.breakLine l) := by
  unfold State.breakLine
  dsimp only
  split
  · exact .restartNow _
  · exact ((h.modLink l _).becomeAbsent l _).sound

/-! ### The effects of the requests -/

theorem VatsReady.endCut {s : State} (h : VatsReady s) (hk : VatsKnown s) (c : Carriage) : VatsReady (s.endCut c) := by
  have hc : VatsReady (s.modCarriage c fun k =>
      if k.state = .cutting then { k.released with state := .free, freeSince := s.clock } else k.released) := by
    refine h.modCarriage c fun v hv => ?_
    split at hv <;> cases hv
  unfold State.endCut State.modVatOf
  split
  · rename_i v hv
    exact hc.modVat v ((h.sound v).cutAt (hk.carried c v hv) s.clock) (by simp [VatRecord.cutAt])
  · exact hc

theorem VatsReady.healMinAfterCut {s : State} (h : VatsReady s) (v : Option Vat) : VatsReady (s.healMinAfterCut v) := by
  cases v with
  | none => exact h
  | some v => exact h.healMinAtOnce v

theorem VatsHold.startCut {s : State} (h : VatsHold s) (hk : VatsKnown s) (c : Carriage) : VatsHold (s.startCut c) := by
  have hc : VatsHold (s.modCarriage c fun k => k.started s.clock s.settings.cutSliceLimit) := h.of_vats rfl
  unfold State.startCut State.modVatOf
  split
  · rename_i v hv
    exact hc.modVat v ((h v).cutting (hk.carried c v hv))
  · exact hc

/-- A vat leaves DUMPING to be washed, and the arbiter looks. -/
theorem VatsReady.queueWash_lineLook {s : State} (h : VatsReady s) {v : Vat}
    (hv : (s.vat v).stage = .dumpQueued ∨ (s.vat v).stage = .dumping) : VatsReady (s.queueWash v).lineLook := by
  have hm : VatsReady (s.modVat v fun r => { r with stage := .washing, lot := none }) :=
    h.modVat v ((h.sound v).washing hv) (by simp)
  exact ((TakesOnly.joinTransfer _ _ _).ready (BankWork.joinTransfer _ _ _).banks hm).lineLook

theorem VatsReady.endDump {s : State} (h : VatsReady s) {x : Lot}
    (hv : (s.vat x.vat).stage = .dumpQueued ∨ (s.vat x.vat).stage = .dumping) (received : Nat) :
    VatsReady (s.endDump x received) := by
  have finish : ∀ t : State, VatsReady t → VatsReady (t.finishLot x received) ∧
      (t.finishLot x received).vats = t.vats := by
    intro t ht
    unfold State.finishLot State.raiseShort
    split
    · exact ⟨ht.congr rfl rfl rfl rfl rfl rfl, rfl⟩
    · split <;> exact ⟨ht.congr rfl rfl rfl rfl rfl rfl, rfl⟩
  obtain ⟨hf, he⟩ := finish (s.modLine fun k => if k.state = .running then k.released.freed s.clock else k.released)
    (h.congr rfl rfl rfl rfl rfl rfl)
  unfold State.endDump
  refine VatsReady.queueWash_lineLook ?_ ?_
  · exact hf.congr rfl rfl rfl rfl rfl rfl
  · simpa [State.vat, he] using hv

theorem VatsReady.discard {s : State} (h : VatsReady s) {v : Vat} (hv : (s.vat v).stage ≠ .vacant) :
    VatsReady (s.discard v) := by
  have hr : VatsReady ((s.leaveCut v).releaseCarriageOf v) ∧
      (((s.leaveCut v).releaseCarriageOf v).vat v).stage ≠ .vacant := by
    have hl := h.leaveCut v
    have hn : ((s.leaveCut v).vat v).stage ≠ .vacant := hv
    unfold State.releaseCarriageOf
    split
    · rename_i c _ _
      have hc : VatsReady ((s.leaveCut v).modCarriage c CarriageRecord.released) :=
        hl.modCarriage c fun w hw => by cases hw
      exact ⟨hc.modVat v ((hc.sound v).withCarriage hn none) fun h => h, by simpa using hn⟩
    · exact ⟨hl, hn⟩
  obtain ⟨hr, hn⟩ := hr
  unfold State.discard State.queueDump
  rw [State.modVat_modVat]
  refine ((hr.modVat v ?_ (by simp)).joinDump (by simp) _ _).lineLook
  exact ((hr.sound v).dumpQueued hn).withMarks rfl _ true

theorem VatsReady.declareVat {s : State} (h : VatsReady s) {d : Declaration} {v : Vat} (hs : (s.vat v).stage = .vacant)
    (service : (s.vat v).service ≠ .outOfUse) (slot : (s.vat v).slot.isSome)
    (target : d.stage = .charged ∨ d.stage = .working ∨ d.stage = .dumpQueued) : VatsReady (s.declareVat d v) := by
  have hv := h.sound v
  unfold State.declareVat
  dsimp only
  split
  · rename_i hd
    rw [State.modVat_modVat]
    refine (h.modVat v (hv.declareWorking hs service slot d _ _ hd) fun _ => ?_).healMinAtOnce v
    simp [VatRecord.declare, VatRecord.healFrom, hd]
  · rename_i hd
    have hn : ∀ r : VatRecord, ∀ x, (r.declare d x).stage ≠ .vacant := by simp [VatRecord.declare, hd]
    refine ((h.modVat v (hv.declare hs service slot d _ (.inr hd)) fun _ => hn _ _).joinDump ?_ _ _).lineLook
    simpa using hn _ _
  · rename_i hw hq
    have hd : d.stage = .charged := by tauto
    exact h.modVat v (hv.declare hs service slot d _ (.inl hd)) fun _ => by simp [VatRecord.declare, hd]

/-- What the owner of an item does in its SET takes and grants alone. -/
theorem VatsReady.actOnSet {s : State} (h : VatsReady s) (i : Item) : VatsReady (s.actOnSet i) := by
  unfold State.actOnSet
  split
  · unfold State.marginSet
    split
    · exact h.moveAllUrgent.cutLook
    · exact h
  · exact h.cutLook
  · exact h.cutLook
  · exact (TakesOnly.forEachFreely fun b t => .of_vats (t.expirePath_vats b)).ready (.pathLimitSet s) h
  · exact h.congr rfl rfl rfl rfl rfl rfl
  · have hp : ∀ (bs : List Bank) (t : State), VatsReady t → VatsReady (bs.foldl State.parkBank t) := by
      intro bs
      induction bs with
      | nil => exact fun t ht => ht
      | cons b bs ih => exact fun t ht => ih _ (ht.congr rfl rfl rfl rfl rfl rfl)
    exact hp _ _ (h.parkLooks _)
  · exact State.forEachFreely_keeps VatsReady s _ _ h (fun _ => h.congr rfl rfl rfl rfl rfl rfl)
      fun l _ t ht => ht.becomeAbsent l _
  · exact h

theorem VatsHold.writeSlot {s : State} (h : VatsHold s) {y : Option Vat} {n : Option Slot}
    (hy : ∀ v, y = some v → (s.vat v).stage ≠ .vacant → n.isSome) : VatsHold (s.writeSlot y n) := by
  cases y with
  | none => exact h
  | some v => exact h.modVat v ((h v).withSlot n (hy v rfl))

/-- A remap takes the slot of a VACANT vat alone. -/
theorem VatsHold.remap {s : State} (h : VatsHold s) {slot : Slot} {y : Option Vat}
    (old : s.vacantOr s.slotMap[slot] = true) : VatsHold (s.remap slot y) := by
  unfold State.remap
  refine (VatsHold.writeSlot (VatsHold.writeSlot h fun v hv hn => ?_) fun _ _ _ => rfl).of_vats rfl
  rw [hv] at old
  exact absurd (by simpa [State.vacantOr] using old) hn

/-- A DISCARD is accepted for no VACANT vat (R45). -/
theorem State.discardable_stage {s : State} {v : Vat} (h : s.discardable v = true) : (s.vat v).stage ≠ .vacant := by
  intro hv
  simp [State.discardable, hv] at h

/-- Every accepted request keeps the vat records sound. -/
theorem VatsHold.effect {s t : State} (hs : VatsHold s) (hk : VatsKnown s) (ha : SlotsAgree s) (h : Effect s t) :
    VatsHold t := by
  have hr := hk.ready hs
  cases h with
  | nothing => exact hs
  | marksOff l => exact hs.of_vats rfl
  | orderFill o v mapped service free vacant =>
    have hslot : (s.vat v).slot.isSome := by rw [(ha v o.slot).mpr mapped]; rfl
    exact (TakesOnly.joinTransfer _ _ _).vatsHold (hs.modVat v ((hs v).ordered vacant service hslot o _))
  | cancelQueued v => exact (TakesOnly.parkLook _ _).vatsHold (VatsHold.clearVat (hs.of_vats rfl) v)
  | cancelListed v filling =>
    refine (TakesOnly.parkLook _ _).vatsHold ?_
    exact VatsHold.endFill (hs.of_vats (by rfl)) filling
  | cancelCurrent c filling =>
    unfold State.cancelCurrent
    split
    · exact hs.of_vats rfl
    · refine (TakesOnly.afterTransfer _ _).vatsHold ?_
      exact VatsHold.endFill (hs.of_vats (by rfl)) filling
  | resumeFill c => exact hs.of_vats rfl
  | setVat v charged => exact hs.modVat v ((hs v).setAt charged s.clock)
  | startCut c => exact hs.startCut hk c
  | endCut c => exact ((hr.endCut hk c).cutLook.healMinAfterCut _).sound
  | endCutLate c => exact ((hr.endCut hk c).healMinAfterCut _).sound
  | refuseCut c => exact (hr.withdrawOrder c (by decide)).cutLook.sound
  | block c => exact hs.of_vats rfl
  | blockOrdered c =>
    exact ((hr.modCarriage c fun v hv => hr.carried c v hv).withdrawOrder c (by decide)).cutLook.sound
  | unblock c => exact (hr.modCarriage c fun v hv => hr.carried c v hv).cutLook.sound
  | pause => exact hs.of_vats rfl
  | resume =>
    refine (VatsReady.cutLook ?_).sound
    exact hr.congr rfl rfl rfl rfl rfl rfl
  | startDump n x found lot =>
    have hd := (hs x.vat).dumping (hk.dumped n x found (by simp [lot]))
    exact (hs.modVat x.vat (f := fun r => { r with stage := .dumping }) hd).of_vats rfl
  | endDump n x received found lot => exact (hr.endDump (hk.dumped n x found (by simp [lot])) received).sound
  | refuseDump n x found lot =>
    have hv : (s.vat x.vat).stage ≠ .vacant := by rcases hk.dumped n x found (by simp [lot]) with e | e <;> simp [e]
    exact (hr.withdrawDump hv _).lineLook.sound
  | closeLot n x =>
    refine (VatsReady.lineLook ?_).sound
    exact hr.congr rfl rfl rfl rfl rfl rfl
  | mouldsLow => exact hs.of_vats rfl
  | mouldsReady =>
    refine (VatsReady.lineLook ?_).sound
    exact hr.congr rfl rfl rfl rfl rfl rfl
  | hold v => exact (TakesOnly.parkLooks _ _).vatsHold (hs.modVat v ((hs v).withHeld true))
  | release v =>
    have hm : VatsReady (s.modVat v fun r => { r with held := false }) :=
      hr.modVat v ((hs v).withHeld false) fun h => h
    exact (hm.bankLooks _ _).cutLook.lineLook.sound
  | stepModeOn v => exact hs.modVat v (hs v).stepModeOn
  | stepModeOff v => exact (hr.stepModeOff v).sound
  | step v => exact (hr.advance v).sound
  | dumpEarly v working =>
    unfold State.queueDump
    rw [State.modVat_modVat]
    refine ((hr.modVat v ?_ (by simp)).joinDump (by simp) _ _).lineLook.sound
    exact ((hs v).dumpQueued (by simp [working])).withMarks rfl true _
  | releaseOverset v overset =>
    unfold State.enterCutWindow
    rw [State.modVat_modVat]
    refine ((hr.modVat v ?_ (by simp)).joinCut (by simp)).cutLook.sound
    exact ((hs v).cutWindow (.inr overset)).withoutCutClose rfl
  | discard v discardable => exact (hr.discard (State.discardable_stage discardable)).sound
  | abandon n x found line current lot =>
    have hb : VatsReady ((s.removeLot x.number).modLine LineRecord.released) := hr.congr rfl rfl rfl rfl rfl rfl
    exact (hb.queueWash_lineLook (hk.dumped n x found (by simp [lot]))).sound
  | freezeBanks on =>
    have hf : VatsReady { s with frozen := { s.frozen with banks := on } } := hr.congr rfl rfl rfl rfl rfl rfl
    unfold State.freezeBanks
    dsimp only
    split
    · exact (hf.bankLooks _ _).sound
    · exact hf.sound
  | freezeCarriages on =>
    have hf : VatsReady { s with frozen := { s.frozen with carriages := on } } := hr.congr rfl rfl rfl rfl rfl rfl
    unfold State.freezeCarriages
    dsimp only
    split
    · exact hf.cutLook.sound
    · exact hf.sound
  | freezeLine on =>
    have hf : VatsReady { s with frozen := { s.frozen with line := on } } := hr.congr rfl rfl rfl rfl rfl rfl
    unfold State.freezeLine
    dsimp only
    split
    · exact hf.lineLook.sound
    · exact hf.sound
  | clearBank b => exact hs.of_vats rfl
  | clearCarriage c faulted empty =>
    exact (hr.modCarriage c fun v hv => hr.carried c v hv).cutLook.sound
  | clearLine =>
    refine (VatsReady.lineLook ?_).sound
    exact hr.congr rfl rfl rfl rfl rfl rfl
  | setItem i v =>
    unfold State.setItem
    split
    · exact hs
    · refine (VatsReady.actOnSet ?_ i).sound
      exact hr.congr rfl rfl rfl rfl rfl rfl
  | mapSlot slot v unmapped old => exact hs.remap old
  | unmapSlot slot old => exact hs.remap old
  | serviceIn v => exact hs.modVat v ((hs v).withService .inUse (by simp))
  | serviceOut v vacant => exact hs.modVat v ((hs v).withService .outOfUse fun _ => vacant)
  | declare d v mapped service vacant target =>
    have hslot : (s.vat v).slot.isSome := by rw [(ha v d.slot).mpr mapped]; rfl
    exact (hr.declareVat vacant service hslot target).sound
  | restart => exact hs.of_vats rfl

/-! ### Every step -/

/-- An event that comes about only when it is due. -/
theorem VatsHold.of_due {s t u : State} {c : Bool} (hs : VatsHold s) (h : c = true → VatsHold u)
    (ht : Host.Outcome.next (φ := Fault) (ρ := Refusal) (if c = true then u else s) = .next t) : VatsHold t := by
  cases ht
  split
  · rename_i hc
    exact h hc
  · exact hs

/-- An event that comes about unless something forbids it. -/
theorem VatsHold.of_not {s t u : State} {c : Prop} [Decidable c] (hs : VatsHold s) (h : VatsHold u)
    (ht : Host.Outcome.next (φ := Fault) (ρ := Refusal) (if c then s else u) = .next t) : VatsHold t := by
  cases ht
  split
  · exact hs
  · exact h

theorem VatsHold.exec {i : Instr} {s t : State} (hs : VatsHold s) (hk : VatsKnown s) (ha : SlotsAgree s)
    (h : exec i s = .next t) : VatsHold t := by
  have hr := hk.ready hs
  induction i using Instr.cases_request with
  | request l edit r =>
    rw [exec_ofRequest] at h
    cases h
    rcases State.takeRequest_effect r l edit s with e | ⟨f, x, d, e⟩
    · rwa [e]
    · exact VatsHold.effect (s := s.answered l edit f x d) hs ⟨hk.cuts, hk.dumps, hk.carried, hk.fed, hk.cancelled,
        hk.current, hk.dumped⟩ ha e
  | powerOnReset => cases h; exact .of_reset rfl
  | resetnAsserted => exact .of_not (u := s.holdReset) hs (hs.of_vats rfl) h
  | resetRelease =>
    cases h
    split
    · exact .of_reset rfl
    · exact hs
  | frameClosed l =>
    cases h
    split
    · split
      · exact hs
      · exact (hr.closeFrame l _).sound
    · exact hs
  | frameAbandoned l =>
    cases h
    split
    · split
      · exact hs
      · exact hs.of_vats rfl
    · exact hs
  | lineBreak l => exact hs.of_not (.breakLine hr l) h
  | presenceTimeout l => exact hs.of_due (fun _ => (hr.becomeAbsent l _).sound) h
  | frameSendStart l =>
    cases h
    split
    · split
      · exact hs
      · rename_i u _ _
        exact (VatsReady.lookAtRoom (s := s.setLink l u) (hr.congr rfl rfl rfl rfl rfl rfl) l).sound
    · exact hs
  | frameSent l =>
    cases h
    split_ifs
    · exact hs
    · exact .restartNow s
    · exact hs.of_vats rfl
  | cutOpenReached v =>
    refine hs.of_due (fun hd => (hr.applyCutOpen ?_).sound) h
    simp only [State.cutOpenDue, Bool.and_eq_true, decide_eq_true_eq] at hd
    exact hd.2.1.1
  | urgencyMoment v => exact hs.of_due (fun _ => (hr.applyUrgency v).sound) h
  | cutCloseReached v =>
    refine hs.of_due (fun hd => ?_) h
    simp only [State.cutCloseDue, Bool.and_eq_true, decide_eq_true_eq] at hd
    obtain ⟨-, hst, hc⟩ := hd
    refine (hr.applyCutClose hst ?_).sound
    unfold State.reached at hc
    split at hc
    · rename_i e
      rw [e]; rfl
    · cases hc
  | healMinReached v =>
    refine hs.of_due (fun hd => (hr.applyHealMin ?_).sound) h
    simp only [State.healMinDue, Bool.and_eq_true, decide_eq_true_eq] at hd
    exact hd.2.1.1
  | healMaxReached v => exact hs.of_due (fun _ => (hr.applyHealMax v).sound) h
  | provedRise b =>
    cases h
    split
    · exact hs
    · split
      · exact hs.of_vats rfl
      · exact VatsHold.applyProvedRise (s := s.seeProved b true) hs ⟨hk.cuts, hk.dumps, hk.carried, hk.fed,
          hk.cancelled, hk.current, hk.dumped⟩ b
  | provedFall b =>
    cases h
    split
    · exact hs
    · split
      · exact hs.of_vats rfl
      · exact VatsHold.applyProvedFall (s := s.seeProved b false) hs ⟨hk.cuts, hk.dumps, hk.carried, hk.fed,
          hk.cancelled, hk.current, hk.dumped⟩ b
  | flowPulse b => exact hs.of_not (hs.applyFlow hk b) h
  | travelTimerExpiry b => exact hs.of_due (fun _ => hs.faultBank hk b _) h
  | drainTimerExpiry b => exact hs.of_due (fun _ => (TakesOnly.endDrain s b).vatsHold hs) h
  | pathOpenLimit b => exact hs.of_due (fun _ => hs.of_vats (s.expirePath_vats b)) h
  | noFlowTimerExpiry b => exact hs.of_due (fun _ => (TakesOnly.applyNoFlow s b).vatsHold hs) h
  | flushTimerExpiry b => exact hs.of_due (fun _ => (TakesOnly.applyFlushExpiry s b).vatsHold hs) h
  | rinseCounterMatch b => exact hs.of_due (fun _ => (TakesOnly.applyRinseMatch s b).vatsHold hs) h
  | rinseTimerExpiry b => exact hs.of_due (fun _ => (TakesOnly.enterReady s b).vatsHold hs) h
  | parkTimerExpiry b => exact hs.of_due (fun _ => hs.of_vats (by rfl)) h
  | parkDrainEnd b => exact hs.of_due (fun _ => hs.of_vats (by rfl)) h
  | cutStartTimerExpiry c => exact hs.of_due (fun _ => (hr.applyCutStartExpiry c).sound) h
  | sliceTimerExpiry c => exact hs.of_due (fun _ => hs.of_vats (by rfl)) h
  | dumpStartTimerExpiry => exact hs.of_due (fun _ => (hr.applyDumpStartExpiry hk).sound) h
  | dumpDurationExpiry => exact hs.of_due (fun _ => hs.of_vats (by rfl)) h
  | characterReceived l c => exact hs.of_not (hr.receive l c).sound h
  | lineReturnedToMark l => exact hs.of_not (hs.of_vats (by rfl)) h

/-- Settles O13: what R21 says of the vats that other records name makes every change of a vat record one that it may
undergo. -/
theorem everyStepKeepsVats : Obligations.EveryStepKeepsVats := by
  rintro s t ⟨hroom, hs, ha⟩ hstep
  have hk := hroom.known
  rcases step_cases hstep with ⟨i, p, d, h⟩ | ⟨d, rfl⟩ | rfl
  · exact VatsHold.exec (s := { s with pending := p, drawn := d }) hs ⟨hk.cuts, hk.dumps, hk.carried, hk.fed,
      hk.cancelled, hk.current, hk.dumped⟩ ha h
  · exact hs.of_vats rfl
  · exact hs

end Sys2Proof.Machine
end

