-- ==== Sys2Proof/Proofs/FieldChecks.lean ====
section
/-! PROOFS. What the first checks and the range check of R155 do, row by row (O22), and the rule by which every later proof
about one request begins: an asked request goes to its owner. -/

namespace Sys2Proof.Machine

/-- A request that passes its first checks is what its owner makes of it. -/
theorem exec_of_asks {s : State} {l : Link} {edit : Bool} {r : Request} {f : Frame} (h : Asks s l edit r f) :
    exec (.ofRequest l edit r) s = .next (ownerOf r ⟨l, f⟩ (s.taken l edit)) := by
  rw [exec_ofRequest, State.takeRequest_of_asks _ h]

/-- A request that a first check refuses. -/
theorem exec_of_refused {s : State} {l : Link} {edit : Bool} {r : Request} {f : Frame} {x : Result}
    (h : s.takable l = some f) (hr : f.request = r) (hx : firstChecks r ⟨l, f⟩ edit = some x) :
    exec (.ofRequest l edit r) s = .next (s.answered l edit f x []) := by
  rw [exec_ofRequest, State.takeRequest_of_refused _ h hr hx]

/-! ### Ranges and what their numbers name -/

theorem within_numbered (n x : Nat) : within 1 n x = (numbered n x).isSome := by
  by_cases h : 1 ≤ x ∧ x ≤ n <;> simp [numbered, within, h]

theorem within_rangeOf? (low high x : Nat) : within low high x = (rangeOf? low high x).isSome := by
  by_cases h : low ≤ x ∧ x ≤ high <;> simp [rangeOf?, within, h]

theorem within_classOf? (x : Nat) : within 0 7 x = (classOf? x).isSome := by
  by_cases h : x < 8
  · simp [classOf?, within, h, Nat.le_of_lt_succ h]
  · simp only [classOf?, within, h, dite_false, Option.isSome_none, decide_eq_false_iff_not]
    omega

theorem within_bitOf? : ∀ x : Nat, within 0 1 x = (bitOf? x).isSome
  | 0 | 1 => by decide
  | x + 2 => by simp [bitOf?, within]

theorem within_stage : ∀ x : Nat, within 0 11 x = (Stage.ofCode x).isSome
  | 0 | 1 | 2 | 3 | 4 | 5 | 6 | 7 | 8 | 9 | 10 | 11 => by decide
  | x + 12 => by simp [Stage.ofCode, within]

theorem within_slotOf? (x : Nat) : within 1 32 x = (slotOf? x).isSome := within_numbered 32 x
theorem within_vatOf? (x : Nat) : within 1 24 x = (vatOf? x).isSome := within_numbered 24 x
theorem within_bankOf? (x : Nat) : within 1 4 x = (bankOf? x).isSome := within_numbered 4 x
theorem within_carriageOf? (x : Nat) : within 1 2 x = (carriageOf? x).isSome := within_numbered 2 x
theorem within_lotOf? (x : Nat) : within 1 4095 x = (lotOf? x).isSome := within_rangeOf? 1 4095 x
theorem within_tagOf? (x : Nat) : within 1 255 x = (tagOf? x).isSome := within_rangeOf? 1 255 x

theorem isSome_zeroOf? (x : Nat) : (zeroOf? x).isSome = decide (x = 0) := by by_cases h : x = 0 <;> simp [zeroOf?, h]

/-! ### A field out of its range -/

section OutOfRange

variable {s : State} {a : Asking}

theorem State.inRange_of_isNone {α : Type} {field : Option α} (rest : α → State) (h : field.isSome = false) :
    s.inRange a field rest = s.refuse a .range := by
  rw [Option.isSome_eq_false_iff, Option.isNone_iff_eq_none] at h
  rw [h, State.inRange_none]

theorem State.onSlot_of_out (rest : Vat → State) (h : within 1 32 (a.frame.byteAt 0) = false) :
    s.onSlot a rest = s.refuse a .range := State.inRange_of_isNone _ ((within_slotOf? _).symm.trans h)

theorem State.onVat_of_out (rest : Vat → State) (h : within 1 24 (a.frame.byteAt 0) = false) :
    s.onVat a rest = s.refuse a .range := State.inRange_of_isNone _ ((within_vatOf? _).symm.trans h)

theorem State.onTag_of_out (rest : Carriage → State) (h : within 1 255 (a.frame.byteAt 0) = false) :
    s.onTag a rest = s.refuse a .range := State.inRange_of_isNone _ ((within_tagOf? _).symm.trans h)

theorem State.onLot_of_out (rest : Lot → State) (h : within 1 4095 (a.frame.pairAt 0) = false) :
    s.onLot a (lotOf? (a.frame.pairAt 0)) rest = s.refuse a .range :=
  State.inRange_of_isNone _ ((within_lotOf? _).symm.trans h)

/-- A QUERY whose subject is another's or whose number names nothing. -/
theorem State.applyQuery_of_out {α : Type} {subject : Nat} {read : Nat → Option α} (report : State → α → Report)
    (h : (decide (a.frame.byteAt 0 = subject) && (read (a.frame.byteAt 1)).isSome) = false) :
    State.applyQuery subject read report a s = s.refuse a .range := by
  unfold State.applyQuery
  split
  · rfl
  · split
    · rfl
    · simp_all

/-- A CLEAR of another resource or of a number that names nothing. -/
theorem Frame.isSome_clearNumber {α : Type} (f : Frame) (resource : Nat) (read : Nat → Option α) :
    (f.clearNumber resource read).isSome = (decide (f.byteAt 0 = resource) && (read (f.byteAt 1)).isSome) := by
  unfold Frame.clearNumber
  split <;> simp [*]

theorem Frame.isSome_fillOrder (f : Frame) : f.fillOrder.isSome =
    (within 1 32 (f.byteAt 0) && within 0 7 (f.byteAt 1) && within 1000 30000 (f.pairAt 2)) := by
  rw [within_slotOf?, within_classOf?, within_rangeOf?]
  unfold Frame.fillOrder
  cases slotOf? (f.byteAt 0) <;> cases classOf? (f.byteAt 1) <;> cases rangeOf? 1000 30000 (f.pairAt 2) <;> rfl

theorem Frame.isSome_dumpDone (f : Frame) : f.dumpDone.isSome =
    (within 1 4095 (f.pairAt 0) && within 0 40000 (f.pairAt 2)) := by
  rw [within_lotOf?, within_rangeOf? 0 40000]
  unfold Frame.dumpDone
  cases lotOf? (f.pairAt 0) <;> cases rangeOf? 0 40000 (f.pairAt 2) <;> rfl

theorem Frame.isSome_declaration (f : Frame) : f.declaration.isSome =
    (within 1 32 (f.byteAt 0) && within 0 7 (f.byteAt 1) && within 1000 30000 (f.pairAt 4) &&
      within 0 11 (f.byteAt 6)) := by
  rw [within_slotOf?, within_classOf?, within_rangeOf?, within_stage]
  unfold Frame.declaration
  cases slotOf? (f.byteAt 0) <;> cases classOf? (f.byteAt 1) <;> cases rangeOf? 1000 30000 (f.pairAt 4) <;>
    cases Stage.ofCode (f.byteAt 6) <;> rfl

theorem ownerOf_of_out {r : Request} (h : fieldsInRange s.settings r a.frame = false) :
    ownerOf r a s = s.refuse a .range := by
  cases r with
  | unknownKindRequest => cases h
  | status => cases h
  | fillOrder => exact State.inRange_of_isNone _ ((Frame.isSome_fillOrder _).trans h)
  | fillCancel => exact State.onSlot_of_out _ h
  | fillResume => exact State.onSlot_of_out _ h
  | setSlot => exact State.onSlot_of_out _ h
  | vatQuery => exact State.onSlot_of_out _ h
  | cutStarted => exact State.onTag_of_out _ h
  | cutDone => exact State.onTag_of_out _ h
  | cutRefused => exact State.onTag_of_out _ h
  | carriageBlock => exact State.inRange_of_isNone _ ((within_carriageOf? _).symm.trans h)
  | carriageUnblock => exact State.inRange_of_isNone _ ((within_carriageOf? _).symm.trans h)
  | routinePause => cases h
  | routineResume => cases h
  | dumpStarted => exact State.onLot_of_out _ h
  | dumpDone => exact State.inRange_of_isNone _ ((Frame.isSome_dumpDone _).trans h)
  | dumpRefused => exact State.onLot_of_out _ h
  | lotClosed => exact State.onLot_of_out _ h
  | mouldsLow => cases h
  | mouldsReady => cases h
  | queryVat =>
    refine State.applyQuery_of_out (subject := 1) (read := vatOf?) State.vatReport ?_
    simpa [fieldsInRange, within_vatOf?] using h
  | queryBank =>
    refine State.applyQuery_of_out (subject := 2) (read := bankOf?) State.bankReport ?_
    simpa [fieldsInRange, within_bankOf?] using h
  | queryCarriage =>
    refine State.applyQuery_of_out (subject := 3) (read := carriageOf?) State.carriageReport ?_
    simpa [fieldsInRange, within_carriageOf?] using h
  | queryCutLists =>
    refine State.applyQuery_of_out (subject := 6) (read := zeroOf?) (fun t _ => t.cutListsReport) ?_
    simpa [fieldsInRange, isSome_zeroOf?] using h
  | queryLine =>
    refine State.applyQuery_of_out (subject := 4) (read := zeroOf?) (fun t _ => t.lineReport) ?_
    simpa [fieldsInRange, isSome_zeroOf?] using h
  | queryLotList =>
    refine State.applyQuery_of_out (subject := 5) (read := zeroOf?) (fun t _ => t.lotListReport) ?_
    simpa [fieldsInRange, isSome_zeroOf?] using h
  | queryDumpLists =>
    refine State.applyQuery_of_out (subject := 7) (read := zeroOf?) (fun t _ => t.dumpListsReport) ?_
    simpa [fieldsInRange, isSome_zeroOf?] using h
  | queryEarlyWindow =>
    refine State.applyQuery_of_out (subject := 8) (read := zeroOf?) (fun t _ => t.windowReport) ?_
    simpa [fieldsInRange, isSome_zeroOf?] using h
  | get => exact State.inRange_of_isNone _ h
  | hold => exact State.onVat_of_out _ h
  | release => exact State.onVat_of_out _ h
  | stepMode =>
    have h : (within 1 24 (a.frame.byteAt 0) && within 0 1 (a.frame.byteAt 1)) = false := h
    rw [within_vatOf?, within_bitOf?] at h
    change State.applyStepMode a s = _
    unfold State.applyStepMode
    split <;> simp_all
  | step => exact State.onVat_of_out _ h
  | dumpEarly => exact State.onSlot_of_out _ h
  | releaseOverset => exact State.onSlot_of_out _ h
  | discard => exact State.onSlot_of_out _ h
  | abandonLot => exact State.onLot_of_out _ h
  | freeze =>
    have h : (within 1 3 (a.frame.byteAt 0) && within 0 1 (a.frame.byteAt 1)) = false := h
    rw [within_bitOf?] at h
    change State.applyFreeze a s = _
    unfold State.applyFreeze
    split <;> simp_all [within]
  | clearBank =>
    exact State.inRange_of_isNone _ (by simpa [Frame.isSome_clearNumber, fieldsInRange, within_bankOf?] using h)
  | clearCarriage =>
    exact State.inRange_of_isNone _ (by simpa [Frame.isSome_clearNumber, fieldsInRange, within_carriageOf?] using h)
  | clearLine =>
    exact State.inRange_of_isNone _ (by simpa [Frame.isSome_clearNumber, fieldsInRange, isSome_zeroOf?] using h)
  | set =>
    change State.applySet a s = _
    have h : (itemOf? (a.frame.byteAt 0)).any (fun i => s.settings.allows i (a.frame.pairAt 1)) = false := h
    unfold State.applySet
    cases hi : itemOf? (a.frame.byteAt 0) with
    | none => rfl
    | some i =>
      rw [hi, Option.any_some] at h
      rw [State.inRange_some]
      simp [h]
  | mapSlot =>
    have h : (within 1 32 (a.frame.byteAt 0) && within 1 24 (a.frame.byteAt 1)) = false := h
    rw [within_slotOf?, within_vatOf?] at h
    change State.applyMapSlot a s = _
    unfold State.applyMapSlot
    split <;> simp_all
  | unmapSlot => exact State.inRange_of_isNone _ ((within_slotOf? _).symm.trans h)
  | service =>
    have h : (within 1 24 (a.frame.byteAt 0) && within 0 1 (a.frame.byteAt 1)) = false := h
    rw [within_vatOf?, within_bitOf?] at h
    change State.applyService a s = _
    unfold State.applyService
    split <;> simp_all
  | declare => exact State.inRange_of_isNone _ ((Frame.isSome_declaration _).trans h)
  | restart => cases h

end OutOfRange

/-! ### A slot that is not mapped -/

theorem State.onSlot_unmapped {s : State} {a : Asking} {slot : Slot} (rest : Vat → State)
    (hs : slotOf? (a.frame.byteAt 0) = some slot) (hm : s.slotMap[slot] = none) :
    s.onSlot a rest = s.refuse a .unmapped := by
  rw [State.onSlot, hs, State.inRange_some, State.resolved_none a rest hm]

theorem State.onSlot_mapped {s : State} {a : Asking} {slot : Slot} {v : Vat} (rest : Vat → State)
    (hs : slotOf? (a.frame.byteAt 0) = some slot) (hm : s.slotMap[slot] = some v) : s.onSlot a rest = rest v := by
  rw [State.onSlot, hs, State.inRange_some, State.resolved_some a rest hm]

theorem Frame.fillOrder_eq_some {f : Frame} {o : FillOrder} (h : f.fillOrder = some o) :
    slotOf? (f.byteAt 0) = some o.slot := by
  unfold Frame.fillOrder at h
  split at h
  · cases h
    assumption
  · cases h

theorem Frame.declaration_eq_some {f : Frame} {d : Declaration} (h : f.declaration = some d) :
    slotOf? (f.byteAt 0) = some d.slot := by
  unfold Frame.declaration at h
  split at h
  · cases h
    assumption
  · cases h

theorem ownerOf_of_unmapped {s : State} {a : Asking} {r : Request} {slot : Slot} (hr : resolvesSlot r = true)
    (h : fieldsInRange s.settings r a.frame = true) (hs : slotOf? (a.frame.byteAt 0) = some slot)
    (hm : s.slotMap[slot] = none) : ownerOf r a s = s.refuse a .unmapped := by
  simp only [resolvesSlot, List.mem_cons, List.not_mem_nil, or_false, decide_eq_true_eq] at hr
  rcases hr with rfl | rfl | rfl | rfl | rfl | rfl | rfl | rfl | rfl
  · have ho : a.frame.fillOrder.isSome = true := (Frame.isSome_fillOrder _).trans h
    obtain ⟨o, ho⟩ := Option.isSome_iff_exists.mp ho
    have hslot : slot = o.slot := Option.some.inj (hs.symm.trans (Frame.fillOrder_eq_some ho))
    subst hslot
    change State.applyFillOrder a s = _
    rw [State.applyFillOrder, ho, State.inRange_some, State.resolved_none _ _ hm]
  · exact State.onSlot_unmapped _ hs hm
  · exact State.onSlot_unmapped _ hs hm
  · exact State.onSlot_unmapped _ hs hm
  · exact State.onSlot_unmapped _ hs hm
  · exact State.onSlot_unmapped _ hs hm
  · exact State.onSlot_unmapped _ hs hm
  · exact State.onSlot_unmapped _ hs hm
  · have hd : a.frame.declaration.isSome = true := (Frame.isSome_declaration _).trans h
    obtain ⟨d, hd⟩ := Option.isSome_iff_exists.mp hd
    have hslot : slot = d.slot := Option.some.inj (hs.symm.trans (Frame.declaration_eq_some hd))
    subst hslot
    change State.applyDeclare a s = _
    rw [State.applyDeclare, hd, State.inRange_some, State.resolved_none _ _ hm]

/-- Settles O22: the first checks decide before the row's owner is asked, the owner's range check comes before anything it
reads of the state, and a slot is resolved before its vat is looked at. -/
theorem firstChecksDecide : Obligations.FirstChecksDecide := by
  refine ⟨fun s l edit r f hf hr => ⟨?_, ?_, ?_, ?_⟩, ?_, ?_⟩
  · intro h
    exact exec_of_refused hf hr (by simp [firstChecks, h])
  · intro h hl
    exact exec_of_refused hf hr (by simp [firstChecks, h, hl])
  · intro h hl ha
    exact exec_of_refused hf hr (by simp [firstChecks, h, hl, ha])
  · intro h hl ha hc he
    exact exec_of_refused hf hr (by simp [firstChecks, h, hl, ha, hc, he])
  · intro s l edit r f ha hf
    rw [exec_of_asks ha, ownerOf_of_out (s := s.taken l edit) (a := ⟨l, f⟩) hf, State.refuse_taken]
  · intro s l edit r f slot ha hr hf hs hm
    rw [exec_of_asks ha, ownerOf_of_unmapped (s := s.taken l edit) (a := ⟨l, f⟩) hr hf hs hm, State.refuse_taken]

end Sys2Proof.Machine
end

