-- ==== Sys2Proof/Proofs/FillRequests.lean ====
section
/-! PROOFS. The Fill station's orders: what an asked FILL ORDER, FILL CANCEL and FILL RESUME each come to, and the zone that
holds a vat (O26, O28, O29). -/

namespace Sys2Proof.Machine

variable {s : State} {l : Link} {edit : Bool} {f : Frame}

/-! ### FILL ORDER -/

/-- A FILL ORDER's fields are read when each of them is in its range (R12, R156). -/
theorem Frame.fillOrder_of_fields {slot : Slot} {c : RecipeClass} (hs : slotOf? (f.byteAt 0) = some slot)
    (hc : classOf? (f.byteAt 1) = some c) (low : 1000 ≤ f.pairAt 2) (high : f.pairAt 2 ≤ 30000) :
    f.fillOrder = some ⟨slot, c, f.pairAt 2, f.pairAt 4⟩ := by
  simp [Frame.fillOrder, hs, hc, rangeOf?, low, high]

/-- An asked FILL ORDER whose slot is mapped: the checks of R23 in their order. -/
theorem exec_fillOrder {o : FillOrder} {v : Vat} (ha : Asks s l edit .fillOrder f) (ho : f.fillOrder = some o)
    (hm : s.slotMap[o.slot] = some v) :
    exec (.fillOrder l edit) s = .next
      (if (s.vat v).service = .outOfUse then s.answered l edit f .service []
       else if (s.vat v).held then s.answered l edit f .held []
       else if (s.vat v).stage ≠ .vacant then s.answered l edit f .stage []
       else (s.taken l edit).acceptFill ⟨l, f⟩ o v) := by
  refine (exec_of_asks ha).trans ?_
  change Host.Outcome.next (State.applyFillOrder ⟨l, f⟩ (s.taken l edit)) = _
  rw [State.applyFillOrder, ho, State.inRange_some, State.resolved_some (s := s.taken l edit) ⟨l, f⟩ _ hm]
  rfl

/-- The zone of a bank that `bankOf` picks holds the vat, since the last zone ends at vat 24 (R48, R49). -/
theorem Settings.Sound.bankOf_zone {t : Settings} (h : t.Sound) (v : Vat) :
    t.endBefore (t.bankOf v) < v.val + 1 ∧ v.val + 1 ≤ t.zoneEnd (t.bankOf v) := by
  have hlast := h.lastZone
  have hv := v.isLt
  unfold Settings.bankOf
  split_ifs with h0 h1 h2
  · exact ⟨Nat.succ_pos _, h0⟩
  · exact ⟨Nat.lt_of_not_le h0, h1⟩
  · exact ⟨Nat.lt_of_not_le h1, h2⟩
  · exact ⟨Nat.lt_of_not_le h2, by omega⟩

/-- Settles O26: the checks of a FILL ORDER decide in the order of R23, and a sound zone table places each vat in the zone of
its bank. -/
theorem fillOrderChargesVat : Obligations.FillOrderChargesVat := by
  refine ⟨fun s l edit f ha slot c hs hc low high => ⟨fun hm => ?_, fun v hm => ?_⟩, fun s v h => ?_⟩
  · have ho := Frame.fillOrder_of_fields hs hc low high
    have hf : fieldsInRange s.settings .fillOrder f = true := by rw [fieldsInRange, ← Frame.isSome_fillOrder, ho]; rfl
    refine (exec_of_asks ha).trans ?_
    rw [ownerOf_of_unmapped (s := s.taken l edit) (a := ⟨l, f⟩) rfl hf hs hm, State.refuse_taken]
  · have he := exec_fillOrder ha (Frame.fillOrder_of_fields hs hc low high) hm
    refine ⟨fun hv => ?_, fun hv hh => ?_, fun hv hh hst => ?_, fun hv hh hst => ?_⟩
    · rw [he, if_pos hv]
    · rw [he, if_neg (by simp [hv]), if_pos hh]
    · rw [he, if_neg (by simp [hv]), if_neg (by simp [hh]), if_pos hst]
    · rw [he, if_neg (by simp [hv]), if_neg (by simp [hh]), if_neg (by simp [hst])]
      rfl
  · exact ((settingsHold_iff s).mp h).bankOf_zone v

/-! ### FILL CANCEL -/

/-- An asked FILL CANCEL whose slot is mapped, by the stage of its vat and the place of its transfer (R26). -/
theorem exec_fillCancel {slot : Slot} {v : Vat} (ha : Asks s l edit .fillCancel f)
    (hs : slotOf? (f.byteAt 0) = some slot) (hm : s.slotMap[slot] = some v) :
    exec (.fillCancel l edit) s = .next
      (if (s.vat v).stage = .fillQueued then (s.answered l edit f .done []).cancelQueued (s.bankOf v) v
       else if (s.vat v).stage = .filling then
         match (s.bank (s.bankOf v)).current with
         | some c =>
           if c.entry.vat = v then (s.answered l edit f .done []).cancelCurrent (s.bankOf v) c
           else (s.answered l edit f .done []).cancelListed (s.bankOf v) v
         | none => (s.answered l edit f .done []).cancelListed (s.bankOf v) v
       else s.answered l edit f .stage []) := by
  refine (exec_of_asks ha).trans ?_
  change Host.Outcome.next (State.applyFillCancel ⟨l, f⟩ (s.taken l edit)) = _
  rw [State.applyFillCancel, State.onSlot_mapped (s := s.taken l edit) _ hs hm]
  rfl

/-- A FILLING vat whose entry is not the current one is cancelled in the list. -/
theorem exec_fillCancel_listed {slot : Slot} {v : Vat} (ha : Asks s l edit .fillCancel f)
    (hs : slotOf? (f.byteAt 0) = some slot) (hm : s.slotMap[slot] = some v) (hv : (s.vat v).stage = .filling)
    (hc : ∀ c, (s.bank (s.bankOf v)).current = some c → c.entry.vat ≠ v) :
    exec (.fillCancel l edit) s = .next ((s.answered l edit f .done []).cancelListed (s.bankOf v) v) := by
  rw [exec_fillCancel ha hs hm, if_neg (by simp [hv]), if_pos hv]
  split
  · rename_i c h
    rw [if_neg (hc c h)]
  · rfl

theorem State.endFill_of_pos {v : Vat} (h : 0 < (s.vat v).filled) :
    s.endFill v = s.modVat v fun r => { r with stage := .charged } := by simp [State.endFill, h]

theorem State.endFill_of_zero {v : Vat} (h : (s.vat v).filled = 0) : s.endFill v = s.modVat v VatRecord.cleared := by
  simp [State.endFill, h, State.clearVat]

/-- Settles O28: a cancelled fill ends by the place of its transfer, its vat CHARGED with what it holds or VACANT. -/
theorem fillCancelEndsFill : Obligations.FillCancelEndsFill := by
  refine ⟨fun s l edit f ha slot v hs hm => ?_, fun s v => ⟨State.endFill_of_pos, State.endFill_of_zero, fun r => rfl⟩⟩
  have he := exec_fillCancel ha hs hm
  refine ⟨fun hv => ?_, fun hv hc hf => ?_, fun hv hc hf => ?_, fun c hv hc hcv hp => ?_, fun c hv hc hcv hp => ?_,
    fun hq hv => ?_⟩
  · rw [he, if_pos hv]
    rfl
  · rw [exec_fillCancel_listed ha hs hm hv hc, State.cancelListed,
      State.endFill_of_pos (s := (s.answered l edit f .done []).dropTransfer (s.bankOf v) v) hf]
    rfl
  · rw [exec_fillCancel_listed ha hs hm hv hc, State.cancelListed,
      State.endFill_of_zero (s := (s.answered l edit f .done []).dropTransfer (s.bankOf v) v) hf]
    rfl
  · rw [he, if_neg (by simp [hv]), if_pos hv, hc]
    simp [hcv, State.cancelCurrent, hp]
  · rw [he, if_neg (by simp [hv]), if_pos hv, hc]
    simp [hcv, State.cancelCurrent, hp]
  · rw [he, if_neg hq, if_neg hv]

/-! ### FILL RESUME -/

/-- An asked FILL RESUME whose slot is mapped: the vat table's checks, and then the bank's (R27, R61). -/
theorem exec_fillResume {slot : Slot} {v : Vat} (ha : Asks s l edit .fillResume f)
    (hs : slotOf? (f.byteAt 0) = some slot) (hm : s.slotMap[slot] = some v) :
    exec (.fillResume l edit) s = .next
      (if (s.vat v).held then s.answered l edit f .held []
       else if (s.vat v).stage ≠ .filling then s.answered l edit f .stage []
       else if (s.bank (s.bankOf v)).state = .faulted then s.answered l edit f .faulted []
       else match (s.bank (s.bankOf v)).current with
         | some c =>
           if c.entry.vat = v ∧ c.phase = .stalled then (s.answered l edit f .done []).resumeFill (s.bankOf v) c
           else s.answered l edit f .stage []
         | none => s.answered l edit f .stage []) := by
  refine (exec_of_asks ha).trans ?_
  change Host.Outcome.next (State.applyFillResume ⟨l, f⟩ (s.taken l edit)) = _
  rw [State.applyFillResume, State.onSlot_mapped (s := s.taken l edit) _ hs hm]
  rfl

/-- Settles O29: a STALLED fill that no check refuses runs again, and every other FILL RESUME is refused. -/
theorem fillResumeRunsStalledFill : Obligations.FillResumeRunsStalledFill := by
  refine fun s l edit f ha slot hs => ⟨fun hm => ?_, fun v hm => ?_⟩
  · have hf : fieldsInRange s.settings .fillResume f = true := (within_slotOf? _).trans (by rw [hs]; rfl)
    refine (exec_of_asks ha).trans ?_
    rw [ownerOf_of_unmapped (s := s.taken l edit) (a := ⟨l, f⟩) rfl hf hs hm, State.refuse_taken]
  · have he := exec_fillResume ha hs hm
    refine ⟨fun hh => ?_, fun hh hv => ?_, fun hh hv hb => ?_, fun c hh hv hb hc hcv hp => ?_, fun hh hv hb hc => ?_⟩
    · rw [he, if_pos hh]
    · rw [he, if_neg (by simp [hh]), if_pos hv]
    · rw [he, if_neg (by simp [hh]), if_neg (by simp [hv]), if_pos hb]
    · rw [he, if_neg (by simp [hh]), if_neg (by simp [hv]), if_neg hb, hc]
      simp [hcv, hp, State.resumeFill, Timer.begin]
    · rw [he, if_neg (by simp [hh]), if_neg (by simp [hv]), if_neg hb]
      split
      · rename_i c h
        rw [if_neg fun hx => hc c h hx.1 hx.2]
      · rfl

end Sys2Proof.Machine
end

