-- ==== Sys2Proof/Proofs/Reports.lean ====
section
/-! PROOFS. The requests that read and change nothing, and what each report holds, field by field (O31). -/

namespace Sys2Proof.Machine

variable {s : State} {l : Link} {edit : Bool} {f : Frame}

/-- A QUERY of its own subject, whose number names `x`, is answered with the part asked for (R165). -/
theorem State.applyQuery_of_named {α : Type} {subject number : Nat} {read : Nat → Option α} {x : α} {a : Asking}
    (report : State → α → Report) (hs : a.frame.byteAt 0 = subject) (hn : a.frame.byteAt 1 = number)
    (hx : read number = some x) :
    State.applyQuery subject read report a s =
      s.answer a .done ((report s x).data subject number (a.frame.byteAt 2)) := by
  subst hn
  simp only [State.applyQuery, hs, ne_eq, not_true_eq_false, if_false, hx]

/-- A part of a report: part 0 its fields, and a later part the items that go to it (R165). -/
theorem Report.part_eq (r : Report) (p : Nat) : r.part p =
    if p = 0 then r.head else ((r.items.drop ((p - 1) * r.perPart)).take r.perPart).flatten := by
  cases p with
  | zero => rfl
  | succ p => rfl

/-- The zone shown in a bank report: its first and last vats, absent when it is empty (R48, R72). -/
theorem Settings.zone_map {α : Type} (t : Settings) (b : Bank) (g : Nat × Nat → α) :
    (t.zone b).map g = if t.zoneStart b ≤ t.zoneEnd b then some (g (t.zoneStart b, t.zoneEnd b)) else none := by
  unfold Settings.zone
  split <;> rfl

theorem BankRecord.parkState_code (k : BankRecord) : k.parkState.code =
    if k.park.isSome then 1 else if k.state = .parked then if k.parkDrain = some true then 2 else 3 else 4 := by
  unfold BankRecord.parkState
  split_ifs <;> rfl

theorem State.rinseCounts_eq (s : State) (b : Bank) : s.rinseCounts b =
    decide (s.settings.rinseInterval ≠ 0 ∧ (s.bank b).state ≠ .parked ∧ (s.bank b).state ≠ .faulted) := by
  simp [State.rinseCounts, Bool.and_assoc]

/-- The current transfer's fields, each absent when there is none (R72). -/
theorem currentFields_eq (o : Option Current) : currentFields o =
    [.oneOrZero (o.map fun c => c.entry.vat.val + 1), .oneOrZero (o.map fun c => c.entry.kind.code),
      .twoOrZero (o.map fun c => c.entry.target), .twoIf (o.map fun c => c.entry.volume),
      .oneIf (o.map fun c => c.entry.resumed.toNat), .oneOrZero (o.map fun c => c.phase.code),
      .oneIf (o.map fun c => c.cancel.toNat)] := by
  cases o <;> rfl

/-- A vat that may be absent is shown by its number. -/
theorem Field.vatIf_map {α : Type} (o : Option α) (g : α → Vat) :
    Field.vatIf (o.map g) = .oneOrZero (o.map fun x => (g x).val + 1) := by cases o <;> rfl

theorem State.bankReport_eq (s : State) (b : Bank) : let k := s.bank b
    let first := if b = 0 then 1 else s.settings.zoneEnds[b - 1] + 1
    let last := s.settings.zoneEnds[b]
    let zone (n : Nat) : Option Nat := if first ≤ last then some n else none
    let parkState : Nat :=
      if k.park.isSome then 1 else if k.state = .parked then if k.parkDrain = some true then 2 else 3 else 4
    let elapsed : Option Nat := (k.flush.orElse fun _ => k.rinse).map fun t => t.count
    s.bankReport b =
      { head :=
          [.one (b.val + 1), .oneOrZero (zone first), .oneOrZero (zone last), .one k.state.code,
            .oneOrZero (k.faultCause.map BankFaultCause.code), .oneOrZero (k.path.map fun v => v.val + 1),
            .twoIf k.pathOpen, .oneOrZero (k.closeCause.map CloseCause.code),
            .oneOrZero (k.closePhase.map ClosePhase.code), .oneOrZero (k.current.map fun c => c.entry.vat.val + 1),
            .oneOrZero (k.current.map fun c => c.entry.kind.code), .twoOrZero (k.current.map fun c => c.entry.target),
            .twoIf (k.current.map fun c => c.entry.volume), .oneIf (k.current.map fun c => c.entry.resumed.toNat),
            .oneOrZero (k.current.map fun c => c.phase.code), .oneIf (k.current.map fun c => c.cancel.toNat),
            .one k.list.length, .mark k.rinsePending, .mark k.rinseOverdue, .one parkState, .twoIf k.park,
            .mark s.frozen.banks, .oneOrZero (k.startPhase.map StartPhase.code),
            .oneIf (if k.startPhase = some .flush then k.flushesDone else none), .twoIf elapsed, .two k.rinseCount,
            .mark (decide (s.settings.rinseInterval ≠ 0 ∧ k.state ≠ .parked ∧ k.state ≠ .faulted))],
        items := k.list.map fun e => [.one (e.vat.val + 1), .one e.kind.code, .two e.target, .two e.volume, .mark e.resumed],
        perPart := 6 } := by
  intro k first last zone parkState elapsed
  simp only [State.bankReport, Settings.zone_map, BankRecord.parkState_code, State.rinseCounts_eq, currentFields_eq]
  rfl

/-- Settles O31: every query answers with its subject's report, and the reports hold the fields of R18, R72, R88, R114 and
R138. -/
theorem queriesReportAndChangeNothing : Obligations.QueriesReportAndChangeNothing := by
  refine ⟨fun s l edit f => ⟨?_, ?_, ?_, ?_, ?_, ?_, ?_, ?_, ?_⟩, fun r subject number part => ?_, fun s v => rfl,
    fun s b => State.bankReport_eq s b, fun s c => rfl, fun s => ⟨rfl, ?_, rfl, rfl, rfl⟩⟩
  · intro ha slot v hs hm
    refine (exec_of_asks ha).trans (congrArg _ ?_)
    exact State.onSlot_mapped (s := s.taken l edit) _ hs hm
  · intro ha hsub v hv
    exact (exec_of_asks ha).trans (congrArg _ (State.applyQuery_of_named State.vatReport hsub rfl hv))
  · intro ha hsub b hb
    exact (exec_of_asks ha).trans (congrArg _ (State.applyQuery_of_named State.bankReport hsub rfl hb))
  · intro ha hsub c hc
    exact (exec_of_asks ha).trans (congrArg _ (State.applyQuery_of_named State.carriageReport hsub rfl hc))
  · intro ha hsub hn
    exact (exec_of_asks ha).trans (congrArg _ (State.applyQuery_of_named (fun t _ => t.lineReport) hsub hn rfl))
  · intro ha hsub hn
    exact (exec_of_asks ha).trans (congrArg _ (State.applyQuery_of_named (fun t _ => t.lotListReport) hsub hn rfl))
  · intro ha hsub hn
    exact (exec_of_asks ha).trans (congrArg _ (State.applyQuery_of_named (fun t _ => t.cutListsReport) hsub hn rfl))
  · intro ha hsub hn
    exact (exec_of_asks ha).trans (congrArg _ (State.applyQuery_of_named (fun t _ => t.dumpListsReport) hsub hn rfl))
  · intro ha hsub hn
    exact (exec_of_asks ha).trans (congrArg _ (State.applyQuery_of_named (fun t _ => t.windowReport) hsub hn rfl))
  · rw [Report.data, Report.part_eq]
    rfl
  · simp only [State.lineReport, Field.vatIf_map]
    rfl

end Sys2Proof.Machine
end

