-- ==== Sys2Proof/Proofs/StationRequests.lean ====
section
/-! PROOFS. What the reports of the Cut station and the holds, freezes, steps, map changes and services of the Console come to
(O33, O42, O43, O50). -/

namespace Sys2Proof.Machine

variable {s : State} {l : Link} {edit : Bool} {f : Frame}

theorem State.modVat_congr (v : Vat) {g h : VatRecord → VatRecord} (e : g (s.vat v) = h (s.vat v)) :
    s.modVat v g = s.modVat v h := by
  simp only [State.modVat, e]

theorem State.modCarriage_congr (c : Carriage) {g h : CarriageRecord → CarriageRecord}
    (e : g (s.carriage c) = h (s.carriage c)) : s.modCarriage c g = s.modCarriage c h := by
  simp only [State.modCarriage, e]

theorem after_of_lt {t d : Nat} (h : t + d < Config.clockRange) : after t d = t + d := by rw [after, if_pos h]

/-! ### CUT STARTED and CUT DONE -/

theorem tagOf?_byteAt {n : Nat} (h : f.byteAt n ≠ 0) : tagOf? (f.byteAt n) = some (f.byteAt n) := by
  have hb : f.byteAt n ≤ 255 := by
    unfold Frame.byteAt
    have := (f.payload.getD n 0).isLt
    omega
  simp [tagOf?, rangeOf?, hb, Nat.one_le_iff_ne_zero, h]

theorem State.onTag_standing {a : Asking} {c : Carriage} (rest : Carriage → State) (ht : a.frame.byteAt 0 ≠ 0)
    (hc : s.standing? (a.frame.byteAt 0) = some c) : s.onTag a rest = rest c := by
  rw [State.onTag, tagOf?_byteAt ht, State.inRange_some]
  simp only [hc]

/-- The record of a CUTTING carriage whose cut ends (R105). -/
theorem State.endCut_of_cutting {c : Carriage} {v : Vat} (hv : (s.carriage c).vat = some v)
    (hc : (s.carriage c).state = .cutting) :
    s.endCut c = (s.modCarriage c fun k => { k.released with state := .free, freeSince := s.clock }).modVat v fun r =>
      r.cutAt s.clock := by
  unfold State.endCut
  simp only [hv, State.modVatOf]
  congr 1
  exact State.modCarriage_congr c (if_pos hc)

/-- The record of a FAULTED carriage whose cut ends keeps its state (R105). -/
theorem State.endCut_of_faulted {c : Carriage} {v : Vat} (hv : (s.carriage c).vat = some v)
    (hc : (s.carriage c).state = .faulted) :
    s.endCut c = (s.modCarriage c CarriageRecord.released).modVat v fun r => r.cutAt s.clock := by
  unfold State.endCut
  simp only [hv, State.modVatOf]
  congr 1
  exact State.modCarriage_congr c (if_neg (by simp [hc]))

/-- The record of a vat whose cut is done, its heal times within the make clock (R2, R36). -/
theorem VatRecord.cutAt_eq {r : VatRecord} {x : ClassTimes} {clock : Nat} (hx : r.snapshot = some x)
    (hmin : clock + x.healMin < Config.clockRange) (hmax : clock + x.healMax < Config.clockRange) :
    r.cutAt clock = { r with stage := .working, carriage := none, cutDone := some clock,
                             healMin := some (clock + x.healMin), healMax := some (clock + x.healMax) } := by
  simp [VatRecord.cutAt, hx, after_of_lt hmin, after_of_lt hmax]

/-- Settles O33: a reported start and a reported end of a cut change the carriage that holds the tag, and the vat it names. -/
theorem cutsStartAndEnd : Obligations.CutsStartAndEnd := by
  refine ⟨fun s l edit f c v ha ht hc hst hv => ?_, fun s l edit f c v x ha ht hc hv hx hmin hmax => ⟨fun hst => ?_,
    fun hst => ?_⟩⟩
  · refine (exec_of_asks ha).trans (congrArg _ ?_)
    change State.applyCutStarted ⟨l, f⟩ (s.taken l edit) = _
    rw [State.applyCutStarted, State.onTag_standing (s := s.taken l edit) (a := ⟨l, f⟩) _ ht hc,
      State.taken_carriage, if_pos hst, State.done_taken]
    simp only [State.startCut, State.answered_carriage, hv, State.modVatOf]
    rfl
  · refine (exec_of_asks ha).trans (congrArg _ ?_)
    change State.applyCutDone ⟨l, f⟩ (s.taken l edit) = _
    rw [State.applyCutDone, State.onTag_standing (s := s.taken l edit) (a := ⟨l, f⟩) _ ht hc]
    simp only [State.taken_carriage, hst, hv, State.healMinAfterCut, State.done_taken]
    rw [State.endCut_of_cutting (s := s.answered l edit f .done []) hv hst]
    congr 2
    exact State.modVat_congr v (VatRecord.cutAt_eq hx hmin hmax)
  · refine (exec_of_asks ha).trans (congrArg _ ?_)
    change State.applyCutDone ⟨l, f⟩ (s.taken l edit) = _
    rw [State.applyCutDone, State.onTag_standing (s := s.taken l edit) (a := ⟨l, f⟩) _ ht hc]
    simp only [State.taken_carriage, hst, hv, State.healMinAfterCut, State.answer_taken]
    rw [State.endCut_of_faulted (s := s.answered l edit f .doneLate []) hv hst]
    congr 1
    exact State.modVat_congr v (VatRecord.cutAt_eq hx hmin hmax)

/-! ### HOLD, RELEASE and FREEZE -/

theorem State.onVat_named {a : Asking} {v : Vat} (rest : Vat → State) (hv : vatOf? (a.frame.byteAt 0) = some v) :
    s.onVat a rest = rest v := by rw [State.onVat, hv, State.inRange_some]

theorem bitOf?_toNat : ∀ on : Bool, bitOf? on.toNat = some on
  | false => rfl
  | true => rfl

/-- An asked HOLD: a vat not yet held becomes held, and the banks that list it look at their park timers (R13, R83). -/
theorem exec_hold {v : Vat} (ha : Asks s l edit .hold f) (hv : vatOf? (f.byteAt 0) = some v) :
    exec (.hold l edit) s = .next
      (if (s.vat v).held then s.answered l edit f .done []
       else ((s.answered l edit f .done []).modVat v fun r => { r with held := true }).parkLooks (s.banksListing v)) :=
  (exec_of_asks ha).trans (congrArg _ (State.onVat_named (s := s.taken l edit) (a := ⟨l, f⟩) _ hv))

/-- An asked RELEASE: a held vat is held no longer, and every block looks (R14). -/
theorem exec_release {v : Vat} (ha : Asks s l edit .release f) (hv : vatOf? (f.byteAt 0) = some v) :
    exec (.release l edit) s = .next
      (if (s.vat v).held then
         (((s.answered l edit f .done []).modVat v fun r => { r with held := false }).bankLooks
           (fun e => decide (e.vat = v)) (s.banksListing v)).cutLook.lineLook
       else s.answered l edit f .done []) :=
  (exec_of_asks ha).trans (congrArg _ (State.onVat_named (s := s.taken l edit) (a := ⟨l, f⟩) _ hv))

/-- A class's look follows a FREEZE that turns its mark off, and no other. -/
theorem freeze_look_iff (was on : Bool) : (was && !on) = true ↔ was = true ∧ on = false := by simp

/-- Settles O42: HOLD and RELEASE act on a change of the mark alone, and FREEZE looks when it turns a mark off. -/
theorem holdReleaseAndFreeze : Obligations.HoldReleaseAndFreeze := by
  refine ⟨fun s l edit f v hv => ⟨fun ha => ⟨fun hh => ?_, fun hh => ?_⟩, fun ha => ⟨fun hh => ?_, fun hh => ?_⟩⟩,
    fun s l edit f on ha hon => ⟨fun hc => ?_, fun hc => ?_, fun hc => ?_⟩⟩
  · rw [exec_hold ha hv, if_pos hh]
  · rw [exec_hold ha hv, if_neg (by simp [hh])]
  · rw [exec_release ha hv, if_neg (by simp [hh])]
  · rw [exec_release ha hv, if_pos hh]
  all_goals
    refine (exec_of_asks ha).trans (congrArg _ ?_)
    change State.applyFreeze ⟨l, f⟩ (s.taken l edit) = _
    simp only [State.applyFreeze, hc, hon, bitOf?_toNat, State.done_taken, State.freezeBanks, State.freezeCarriages,
      State.freezeLine, freeze_look_iff, State.answered_frozen]

/-! ### STEP MODE, STEP, and the place of a cut entry -/

theorem State.advance_of_nothing {v : Vat} (h : (s.vat v).stepPending = .nothing) : s.advance v = s := by
  rw [State.advance, h]

theorem State.advance_of_cutOpen {v : Vat} (h : (s.vat v).stepPending = .cutOpen) :
    s.advance v = (s.enterCutWindow v).cutLook := by rw [State.advance, h]

theorem State.advance_of_healMin {v : Vat} (h : (s.vat v).stepPending = .healMin) :
    s.advance v = (s.queueDump v .normal false).lineLook := by rw [State.advance, h]

/-- An asked STEP MODE: on sets the mark, off clears it and performs the advance that waits (R15). -/
theorem exec_stepMode {v : Vat} {on : Bool} (ha : Asks s l edit .stepMode f) (hv : vatOf? (f.byteAt 0) = some v)
    (hon : f.byteAt 1 = on.toNat) :
    exec (.stepMode l edit) s = .next
      (if on then (s.answered l edit f .done []).modVat v fun r => { r with stepMode := true }
       else ((s.answered l edit f .done []).modVat v fun r => { r with stepMode := false }).advance v) := by
  refine (exec_of_asks ha).trans (congrArg _ ?_)
  change State.applyStepMode ⟨l, f⟩ (s.taken l edit) = _
  cases on <;> simp only [State.applyStepMode, hv, hon, bitOf?_toNat] <;> rfl

/-- An asked STEP: the advance that waits, or STAGE when none does (R31). -/
theorem exec_step {v : Vat} (ha : Asks s l edit .step f) (hv : vatOf? (f.byteAt 0) = some v) :
    exec (.step l edit) s = .next
      (if (s.vat v).stepPending = .nothing then s.answered l edit f .stage []
       else (s.answered l edit f .done []).advance v) :=
  (exec_of_asks ha).trans (congrArg _ (State.onVat_named (s := s.taken l edit) (a := ⟨l, f⟩) _ hv))

theorem State.joinCut_of_urgent {v : Vat} (h : s.cutListFor v = .urgent) :
    s.joinCut v = { s with urgent := s.urgent ++ [s.cutEntry v] } := by rw [State.joinCut, h]

theorem State.joinCut_of_open {v : Vat} (h : s.cutListFor v = .openList) :
    s.joinCut v = { s with openList := putBefore (s.opensLater v) (s.cutEntry v) s.openList } := by rw [State.joinCut, h]

/-- Settles O43: STEP and STEP MODE off perform the advance that waits, and a new cut entry has its place by R29. -/
theorem stepAdvancesAndEntriesArePlaced : Obligations.StepAdvancesAndEntriesArePlaced := by
  refine ⟨fun s l edit f v hv => ?_, fun s v => ⟨fun h => ?_, fun x hx h => ?_, fun x hx h => ?_⟩⟩
  · have pending : ∀ p, (s.vat v).stepPending = p →
        (((s.answered l edit f .done []).modVat v fun r => { r with stepMode := false }).vat v).stepPending = p :=
      fun p hp => by simpa using hp
    refine ⟨fun ha hon => exec_stepMode (on := true) ha hv hon, fun ha hoff => ?_, fun ha => ?_⟩
    · have he := exec_stepMode (on := false) ha hv hoff
      rw [if_neg (by simp)] at he
      refine ⟨fun hp => ?_, fun hp => ?_, fun hp => ?_⟩
      · rw [he, State.advance_of_nothing (pending _ hp)]
      · rw [he, State.advance_of_cutOpen (pending _ hp)]
        rfl
      · rw [he, State.advance_of_healMin (pending _ hp)]
        rfl
    · have he := exec_step ha hv
      refine ⟨fun hp => ?_, fun hp => ?_, fun hp => ?_⟩
      · rw [he, if_pos hp]
      · rw [he, if_neg (by simp [hp]), State.advance_of_cutOpen (s := s.answered l edit f .done []) hp]
        rfl
      · rw [he, if_neg (by simp [hp]), State.advance_of_healMin (s := s.answered l edit f .done []) hp]
        rfl
  · exact State.joinCut_of_urgent (by rw [State.cutListFor, h])
  · exact State.joinCut_of_urgent (by simp [State.cutListFor, hx, State.urgentAt, h])
  · have hl : s.cutListFor v = .openList := by simp [State.cutListFor, hx, State.urgentAt, h]
    obtain ⟨before, behind, split, put, earlier, later⟩ := putBefore_eq (s.opensLater v) (s.cutEntry v) s.openList
    exact ⟨before, behind, split, by rw [State.joinCut_of_open hl, put]; rfl, earlier, later⟩

end Sys2Proof.Machine
end

