-- ==== Sys2Proof/Proofs/ConfigRequests.lean ====
section
/-! PROOFS. The configuration requests of the Console: MAP SLOT, SERVICE, DECLARE and RESTART (O50, O51). -/

namespace Sys2Proof.Machine

variable {s : State} {l : Link} {edit : Bool} {f : Frame}

/-! ### MAP SLOT -/

theorem State.mapped_iff {v : Vat} : s.mapped v = true ↔ ∃ n : Slot, s.slotMap[n] = some v := by simp [State.mapped]

/-- An asked MAP SLOT with a vat, in the order of R7. -/
theorem exec_mapSlot {slot : Slot} {v : Vat} (ha : Asks s l edit .mapSlot f) (hs : slotOf? (f.byteAt 0) = some slot)
    (hv : vatOf? (f.byteAt 1) = some v) :
    exec (.mapSlot l edit) s = .next
      (if s.slotMap[slot] = some v then s.answered l edit f .done []
       else if s.mapped v then s.answered l edit f .conflict []
       else if !s.vacantOr s.slotMap[slot] || !s.vacantOr (some v) then s.answered l edit f .stage []
       else (s.answered l edit f .done []).remap slot (some v)) := by
  refine (exec_of_asks ha).trans (congrArg _ ?_)
  change State.applyMapSlot ⟨l, f⟩ (s.taken l edit) = _
  simp only [State.applyMapSlot, hs, hv]
  rfl

/-- An asked MAP SLOT with none (R8). -/
theorem exec_unmapSlot {slot : Slot} (ha : Asks s l edit .unmapSlot f) (hs : slotOf? (f.byteAt 0) = some slot) :
    exec (.unmapSlot l edit) s = .next
      (if !s.vacantOr s.slotMap[slot] then s.answered l edit f .stage []
       else (s.answered l edit f .done []).remap slot none) := by
  refine (exec_of_asks ha).trans (congrArg _ ?_)
  change State.applyUnmapSlot ⟨l, f⟩ (s.taken l edit) = _
  rw [State.applyUnmapSlot, hs, State.inRange_some]
  rfl

/-- An asked SERVICE: IN always, OUT for a VACANT vat alone (R9). -/
theorem exec_service {v : Vat} {on : Bool} (ha : Asks s l edit .service f) (hv : vatOf? (f.byteAt 0) = some v)
    (hon : f.byteAt 1 = on.toNat) :
    exec (.service l edit) s = .next
      (if on then (s.answered l edit f .done []).modVat v fun r => { r with service := .inUse }
       else if (s.vat v).stage ≠ .vacant then s.answered l edit f .stage []
       else (s.answered l edit f .done []).modVat v fun r => { r with service := .outOfUse }) := by
  refine (exec_of_asks ha).trans (congrArg _ ?_)
  change State.applyService ⟨l, f⟩ (s.taken l edit) = _
  cases on <;> simp only [State.applyService, hv, hon, bitOf?_toNat] <;> rfl

/-- Writing none into an entry that is none already changes nothing. -/
theorem State.remap_none_of_unmapped {slot : Slot} (h : s.slotMap[slot] = none) : s.remap slot none = s := by
  have hm : s.slotMap.set slot none = s.slotMap := by
    rw [← h]
    exact Vector.set_getElem_self _
  simp only [State.remap, h, State.writeSlot, hm]

/-- A remap of an unmapped slot writes one vat. -/
theorem State.remap_of_unmapped {slot : Slot} {v : Vat} (h : s.slotMap[slot] = none) :
    s.remap slot (some v) = { s.modVat v fun r => { r with slot := some slot } with
      slotMap := s.slotMap.set slot (some v) } := by
  simp only [State.remap, h, State.writeSlot]
  rfl

/-- A remap of a mapped slot writes the vat it names and the vat that it is to name. -/
theorem State.remap_of_mapped {slot : Slot} {v w : Vat} (h : s.slotMap[slot] = some w) :
    s.remap slot (some v) = { (s.modVat w fun r => { r with slot := none }).modVat v fun r =>
      { r with slot := some slot } with slotMap := s.slotMap.set slot (some v) } := by
  simp only [State.remap, h, State.writeSlot]
  rfl

theorem State.remap_none_of_mapped {slot : Slot} {w : Vat} (h : s.slotMap[slot] = some w) :
    s.remap slot none = { s.modVat w fun r => { r with slot := none } with slotMap := s.slotMap.set slot none } := by
  simp only [State.remap, h, State.writeSlot]
  rfl

theorem State.vacantOr_some_iff {v : Vat} : s.vacantOr (some v) = true ↔ (s.vat v).stage = .vacant := by
  simp [State.vacantOr]

/-- Settles O50: a remap is accepted for VACANT vats alone, and writes the entry and both slot fields together. -/
theorem mapAndService : Obligations.MapAndService := by
  refine fun s l edit f => ⟨fun slot v ha hs hv => ?_, fun slot ha hs => ?_, fun v ha hv => ?_⟩
  · have he := exec_mapSlot ha hs hv
    refine ⟨fun hm => ?_, fun hm hn => ?_, fun hn => ?_⟩
    · rw [he, if_pos hm]
    · rw [he, if_neg hm, if_pos (State.mapped_iff.mpr hn)]
    · rw [if_neg (hn slot), if_neg fun h => (State.mapped_iff.mp h).elim hn] at he
      refine ⟨fun hst => ?_, fun w hst hm hw => ?_, fun hst hm => ?_⟩
      · rw [he, if_pos]
        rcases hst with hst | ⟨w, hm, hw⟩
        · simp [State.vacantOr, hst]
        · simp [State.vacantOr, hm, hw]
      · rw [he, if_neg (by simp [State.vacantOr, hm, hw, hst]),
          State.remap_of_mapped (s := s.answered l edit f .done []) hm]
        rfl
      · rw [he, if_neg (by simp [State.vacantOr, hm, hst]),
          State.remap_of_unmapped (s := s.answered l edit f .done []) hm]
        rfl
  · have he := exec_unmapSlot ha hs
    refine ⟨fun hm => ?_, fun w hm => ⟨fun hst => ?_, fun hst => ?_⟩⟩
    · rw [he, if_neg (by simp [State.vacantOr, hm]),
        State.remap_none_of_unmapped (s := s.answered l edit f .done []) hm]
    · rw [he, if_pos (by simp [State.vacantOr, hm, hst])]
    · rw [he, if_neg (by simp [State.vacantOr, hm, hst]),
        State.remap_none_of_mapped (s := s.answered l edit f .done []) hm]
      rfl
  · refine ⟨fun hon => exec_service (on := true) ha hv hon, fun hoff hst => ?_, fun hoff hst => ?_⟩
    · rw [exec_service (on := false) ha hv hoff, if_neg (by simp), if_neg (by simp [hst])]
    · rw [exec_service (on := false) ha hv hoff, if_neg (by simp), if_pos hst]

/-! ### DECLARE and RESTART -/

/-- A DECLARE's fields are read when each of them is in its range (R16, R159). -/
theorem Frame.declaration_of_fields {slot : Slot} {c : RecipeClass} {stage : Stage}
    (hs : slotOf? (f.byteAt 0) = some slot) (hc : classOf? (f.byteAt 1) = some c) (low : 1000 ≤ f.pairAt 4)
    (high : f.pairAt 4 ≤ 30000) (hst : Stage.ofCode (f.byteAt 6) = some stage) :
    f.declaration = some ⟨slot, c, f.pairAt 2, f.pairAt 4, stage⟩ := by
  simp [Frame.declaration, hs, hc, hst, rangeOf?, low, high]

/-- An asked DECLARE whose slot is mapped: the checks of R16 in their order. -/
theorem exec_declare {d : Declaration} {v : Vat} (ha : Asks s l edit .declare f) (hd : f.declaration = some d)
    (hm : s.slotMap[d.slot] = some v) :
    exec (.declare l edit) s = .next
      (if (s.vat v).service = .outOfUse then s.answered l edit f .service []
       else if (s.vat v).stage ≠ .vacant then s.answered l edit f .stage []
       else if d.stage ≠ .charged ∧ d.stage ≠ .working ∧ d.stage ≠ .dumpQueued then s.answered l edit f .stage []
       else (s.answered l edit f .done []).declareVat d v) := by
  refine (exec_of_asks ha).trans (congrArg _ ?_)
  change State.applyDeclare ⟨l, f⟩ (s.taken l edit) = _
  rw [State.applyDeclare, hd, State.inRange_some, State.resolved_some (s := s.taken l edit) ⟨l, f⟩ _ hm]
  rfl

theorem State.declareVat_charged {d : Declaration} {v : Vat} (h : d.stage = .charged) :
    s.declareVat d v = s.modVat v fun r => r.declare d (s.settings.timesOf d.recipe) := by simp [State.declareVat, h]

theorem State.declareVat_dumpQueued {d : Declaration} {v : Vat} (h : d.stage = .dumpQueued) :
    s.declareVat d v =
      ((s.modVat v fun r => r.declare d (s.settings.timesOf d.recipe)).joinDump v .normal false).lineLook := by
  simp [State.declareVat, h]

/-- A vat declared WORKING has its heal times from now, and its heal-min event at once when that has come (R17). -/
theorem State.declareVat_working {d : Declaration} {v : Vat} (h : d.stage = .working) :
    s.declareVat d v = (s.modVat v fun r =>
      (r.declare d (s.settings.timesOf d.recipe)).healFrom s.clock (s.settings.timesOf d.recipe)).healMinAtOnce v := by
  simp [State.declareVat, h, State.modVat_modVat]

/-- A RESTART that has been accepted keeps every later frame of the Console link in its buffer (R153). -/
theorem State.takable_console_of_restartAccepted (h : s.restartAccepted = true) : s.takable .console = none := by
  simp [State.takable, h]

/-- Settles O51: a DECLARE sets up the record of a VACANT vat in the stage it names, and an accepted RESTART stops the
Console link's taking. -/
theorem declareAndRestart : Obligations.DeclareAndRestart := by
  refine fun s l edit f => ⟨fun slot c stage ha hs hc low high hst => ⟨fun hm => ?_, fun v hm => ?_⟩, fun ha => ?_⟩
  · have hd := Frame.declaration_of_fields hs hc low high hst
    have hf : fieldsInRange s.settings .declare f = true := by rw [fieldsInRange, ← Frame.isSome_declaration, hd]; rfl
    refine (exec_of_asks ha).trans ?_
    rw [ownerOf_of_unmapped (s := s.taken l edit) (a := ⟨l, f⟩) rfl hf hs hm, State.refuse_taken]
  · have he := exec_declare ha (Frame.declaration_of_fields hs hc low high hst) hm
    refine ⟨fun hv => ?_, fun hv hst => ?_, fun hv hvac => ?_⟩
    · rw [he, if_pos hv]
    · rw [he, if_neg (by simp [hv]), if_pos hst]
    · rw [if_neg (by simp [hv]), if_neg (by simp [hvac])] at he
      refine ⟨fun h₁ h₂ h₃ => ?_, fun h => ?_, fun h hmin hmax => ?_, fun h => ?_⟩
      · rw [he, if_pos ⟨h₁, h₂, h₃⟩]
      · subst h
        rw [he, if_neg (by simp), State.declareVat_charged rfl]
        rfl
      · subst h
        rw [he, if_neg (by simp), State.declareVat_working rfl]
        simp only [VatRecord.healFrom, State.answered_clock, State.answered_settings, after_of_lt hmin, after_of_lt hmax]
        rfl
      · subst h
        rw [he, if_neg (by simp), State.declareVat_dumpQueued rfl]
        rfl
  · exact ⟨_, exec_of_asks ha, rfl, State.takable_console_of_restartAccepted rfl⟩

end Sys2Proof.Machine
end

