-- ==== Sys2Proof/Proofs/Resets.lean ====
section
/-! PROOFS. The state after a reset (O3), and how the power-on reset, RESETN and an accepted RESTART bring it about (O4). -/

namespace Sys2Proof.Machine

/-! ### The state after a reset -/

@[simp] theorem State.reset_vat (v : Vat) : State.reset.vat v = VatRecord.reset v := by simp [State.vat, State.reset]

@[simp] theorem State.reset_bank (b : Bank) : State.reset.bank b = BankRecord.reset Settings.default.travelLimit := by
  simp [State.bank, State.reset]

@[simp] theorem State.reset_carriage (c : Carriage) : State.reset.carriage c = CarriageRecord.reset := by
  simp [State.carriage, State.reset]

@[simp] theorem State.reset_link (l : Link) : State.reset.link l = LinkUnit.reset false := by cases l <;> rfl

theorem State.reset_slotMap (n : Slot) : State.reset.slotMap[n] = vatOf? (n.val + 1) := by
  simp [State.reset, vatOf?, numbered]

/-- Settles O3: the start-up state, field by field. -/
theorem startUpState : Obligations.StartUpState := by
  refine ⟨rfl, rfl, rfl, rfl, rfl, fun v => ?_, State.reset_slotMap, State.reset_bank, State.reset_carriage, rfl, rfl, rfl,
    rfl, rfl, rfl, rfl, rfl, rfl, rfl, rfl, rfl, fun l => ?_⟩
  · have hv : v.val + 1 ≤ 32 := by omega
    simp [VatRecord.reset, slotOf?, numbered, hv]
  · simp [LinkUnit.reset]

/-! ### An accepted RESTART -/

section Restart

variable {s : State}

theorem State.restartNow_vat (v : Vat) : s.restartNow.vat v =
    { State.reset.vat v with service := (s.vat v).service, slot := (s.vat v).slot } := by
  rw [State.reset_vat]
  simp [State.restartNow, State.vat, VatRecord.cleared, VatRecord.reset]

theorem State.restartNow_bank (b : Bank) : s.restartNow.bank b = startedBank s.settings s.proved[b] := by
  simp [State.restartNow, State.bank]

theorem State.restartNow_link (l : Link) :
    s.restartNow.link l = { State.reset.link l with inBreak := (s.link l).inBreak } := by cases l <;> rfl

/-- The restart reads of a link unit only whether its line is in a break. -/
theorem State.restartNow_modLink (l : Link) {g h : LinkUnit → LinkUnit}
    (e : (g (s.link l)).inBreak = (h (s.link l)).inBreak) : (s.modLink l g).restartNow = (s.modLink l h).restartNow := by
  cases l <;>
    simp only [State.restartNow, State.modLink, State.setLink, Links.put, State.link, Links.get] at e ⊢ <;> rw [e]

theorem State.modLink_id (l : Link) : (s.modLink l fun u => u) = s := by cases l <;> rfl

theorem State.restartNow_modLink_same (l : Link) {g : LinkUnit → LinkUnit}
    (e : (g (s.link l)).inBreak = (s.link l).inBreak) : (s.modLink l g).restartNow = s.restartNow := by
  rw [State.restartNow_modLink l (h := fun u => u) e, State.modLink_id]

theorem LinkUnit.raise_inBreak (n : Notice) (u : LinkUnit) : (u.raise n).inBreak = u.inBreak := by
  unfold LinkUnit.raise
  split <;> rfl

theorem State.restartNow_raise (l : Link) (n : Notice) : (s.raise l n).restartNow = s.restartNow :=
  State.restartNow_modLink_same l (LinkUnit.raise_inBreak n _)

/-- Becoming ABSENT changes nothing on the Console link that a restart reads. -/
theorem State.restartNow_becomeAbsent_console (cause : AbsentCause) :
    (s.becomeAbsent .console cause).restartNow = s.restartNow := by
  unfold State.becomeAbsent
  split
  · exact (State.restartNow_raise _ _).trans (State.restartNow_modLink_same .console rfl)
  · rfl

/-- A break of the Console line before the reply of an accepted RESTART has begun to be sent (R150, R153). -/
theorem State.breakLine_console_of_unsent (h : s.restartUnsent = true) :
    s.breakLine .console = (s.modLink .console fun u => { u with inBreak := true }).restartNow := by
  unfold State.breakLine
  dsimp only
  rw [if_pos ⟨rfl, h⟩, State.restartNow_becomeAbsent_console]
  exact State.restartNow_modLink .console rfl

end Restart

/-! ### RESETN -/

/-- A bank held in reset drives none of its outputs (R172). -/
theorem State.outputs_of_inReset {s : State} (h : s.inReset = true) (b : Bank) : s.outputs b = .closed := by
  rw [State.outputs, if_pos h]

theorem State.holdReset_link (s : State) (l : Link) : s.holdReset.link l = { s.link l with sending := none } := by
  cases l <;> rfl

/-- Settles O4: a power-on reset and RESETN bring the start-up state, and an accepted RESTART brings it with the settings, the
slot map and the services kept. -/
theorem resetsTakeEffect : Obligations.ResetsTakeEffect := by
  refine ⟨⟨fun s resetn r1 r0 proved => rfl, fun s r1 r0 h => ?_, fun s h => ?_, fun t => ?_⟩,
    fun s f tag data hr ha hf hm => ?_, fun s hr hb ha hf => ?_, fun s => ?_⟩
  · change Host.Outcome.next (if s.inReset then s.fullReset ⟨r1, r0⟩ s.proved else s) = _
    rw [if_pos h]
    rfl
  · refine ⟨s.holdReset, ?_, rfl, State.holdReset_link s, State.outputs_of_inReset rfl⟩
    change Host.Outcome.next (if s.inReset then s else s.holdReset) = _
    rw [if_neg (by simp [h])]
  · exact ⟨rfl, rfl, rfl, rfl, rfl⟩
  · change Host.Outcome.next (if s.inReset then s else if s.sendsRestartReply .console then s.restartNow else _) = _
    rw [if_neg (by simp [hr]), if_pos (by simp [State.sendsRestartReply, ha, hf, hm, Message.isRestartReply])]
  · have hu : s.restartUnsent = true := by
      cases hs : (s.link .console).sending with
      | none => simp [State.restartUnsent, ha, hs]
      | some f => simp [State.restartUnsent, ha, hs, hf f hs]
    change Host.Outcome.next (if s.inReset || (s.link .console).inBreak then s else s.breakLine .console) = _
    rw [if_neg (by simp [hr, hb]), State.breakLine_console_of_unsent hu]
  · exact ⟨rfl, rfl, rfl, rfl, rfl, rfl, State.restartNow_vat, State.restartNow_bank, rfl, rfl, rfl, rfl, rfl, rfl, rfl, rfl,
      rfl, rfl, rfl, State.restartNow_link⟩

end Sys2Proof.Machine
end

