-- ==== Sys2Proof/Proofs/CutGrants.lean ====
section
/-! PROOFS. What a look of the carriage arbiter may change, and which grants it makes (O37). -/

namespace Sys2Proof.Machine

variable {s t : State}

/-! ### One grant -/

/-- The record of a carriage that is granted to the chosen entry now (R96). -/
def CutChoice.granted (x : CutChoice) (s : State) (k : CarriageRecord) : CarriageRecord :=
  { k with state := .ordered, vat := some x.entry.vat, tag := some s.tagToIssue, orderedAt := some s.clock,
           startedAt := none, start := some (.begin s.settings.cutStartLimit) }

theorem State.applyCutGrant_carriage_same (x : CutChoice) (c : Carriage) :
    (s.applyCutGrant x c).carriage c = x.granted s (s.carriage c) := by
  obtain ⟨list, entry, rest⟩ := x
  simp only [State.applyCutGrant, State.raise_carriage, State.modVat_carriage, State.modCarriage_carriage_same]
  cases list <;> rfl

theorem State.applyCutGrant_carriage_ne (x : CutChoice) {c d : Carriage} (h : d ≠ c) :
    (s.applyCutGrant x c).carriage d = s.carriage d := by
  obtain ⟨list, entry, rest⟩ := x
  simp only [State.applyCutGrant, State.raise_carriage, State.modVat_carriage, State.modCarriage_carriage_ne _ _ h]
  cases list <;> rfl

/-- A grant writes the carriage field of one vat (R34). -/
theorem State.applyCutGrant_vat (x : CutChoice) (c : Carriage) (v : Vat) :
    (s.applyCutGrant x c).vat v = s.vat v ∨ (s.applyCutGrant x c).vat v = { s.vat v with carriage := some c } := by
  obtain ⟨list, entry, rest⟩ := x
  by_cases hv : v = entry.vat
  · subst hv
    right
    simp only [State.applyCutGrant, State.raise_vat, State.modVat_vat_same, State.modCarriage_vat]
    cases list <;> rfl
  · left
    simp only [State.applyCutGrant, State.raise_vat, State.modVat_vat_ne _ _ hv, State.modCarriage_vat]
    cases list <;> rfl

/-- What a grant of a carriage leaves as it was. -/
theorem State.applyCutGrant_keeps (x : CutChoice) (c : Carriage) :
    (s.applyCutGrant x c).settings = s.settings ∧ (s.applyCutGrant x c).banks = s.banks ∧
      (s.applyCutGrant x c).line = s.line ∧ (s.applyCutGrant x c).lots = s.lots ∧
      (s.applyCutGrant x c).slotMap = s.slotMap ∧ (s.applyCutGrant x c).clock = s.clock := by
  obtain ⟨list, entry, rest⟩ := x
  cases list <;> exact ⟨rfl, rfl, rfl, rfl, rfl, rfl⟩

/-- An eligible entry's vat is in reach and not held, and the carriage is FREE and not blocked (R92). -/
theorem State.cutEligible_iff {e : CutEntry} {c : Carriage} : s.cutEligible e c = true ↔
    (s.carriage c).state = .free ∧ (s.carriage c).blocked = false ∧ (s.vat e.vat).held = false ∧
      (s.settings.reachOf c).low ≤ e.vat.val + 1 ∧ e.vat.val + 1 ≤ (s.settings.reachOf c).high := by
  simp only [State.cutEligible, within, State.isHeld, Settings.reachOf, Bool.and_eq_true, decide_eq_true_eq,
    Bool.not_eq_true']
  tauto

/-! ### The grants of a look -/

/-- A carriage granted in a look that began in `s` and has come to `t` (R92, R96). -/
structure CarriageGranted (s t : State) (c : Carriage) : Prop where
  free : (s.carriage c).state = .free
  unblocked : (s.carriage c).blocked = false
  ordered : (t.carriage c).state = .ordered
  orderedAt : (t.carriage c).orderedAt = some s.clock
  start : (t.carriage c).start = some ⟨0, s.settings.cutStartLimit⟩
  vat : ∃ v : Vat, (t.carriage c).vat = some v ∧ (s.vat v).held = false ∧
    (s.settings.reachOf c).low ≤ v.val + 1 ∧ v.val + 1 ≤ (s.settings.reachOf c).high

/-- What a look that began in `s` has changed when it has come to `t`: carriages granted, and the carriage fields of vats. -/
structure CutGrants (s t : State) : Prop where
  vats : ∀ v : Vat, { t.vat v with carriage := (s.vat v).carriage } = s.vat v
  carriages : ∀ c : Carriage, t.carriage c = s.carriage c ∨ CarriageGranted s t c
  settings : t.settings = s.settings
  banks : t.banks = s.banks
  line : t.line = s.line
  lots : t.lots = s.lots
  slotMap : t.slotMap = s.slotMap
  clock : t.clock = s.clock

theorem CutGrants.refl (s : State) : CutGrants s s :=
  ⟨fun _ => rfl, fun _ => .inl rfl, rfl, rfl, rfl, rfl, rfl, rfl⟩

theorem CutGrants.held (h : CutGrants s t) (v : Vat) : (t.vat v).held = (s.vat v).held := by
  have e := congrArg VatRecord.held (h.vats v)
  exact e

/-- A carriage that is FREE in a look has not been granted in it. -/
theorem CutGrants.carriage_of_free (h : CutGrants s t) {c : Carriage} (hc : (t.carriage c).state = .free) :
    t.carriage c = s.carriage c := by
  rcases h.carriages c with e | g
  · exact e
  · have := g.ordered
    rw [hc] at this
    cases this

/-- A grant for which the entry is eligible carries a look on. -/
theorem CutGrants.grant (h : CutGrants s t) {x : CutChoice} {c : Carriage} (hc : t.cutEligible x.entry c = true) :
    CutGrants s (t.applyCutGrant x c) := by
  obtain ⟨free, unblocked, held, low, high⟩ := State.cutEligible_iff.mp hc
  rw [h.held] at held
  rw [h.settings] at low high
  obtain ⟨kset, kbanks, kline, klots, kmap, kclock⟩ := State.applyCutGrant_keeps (s := t) x c
  refine ⟨fun v => ?_, fun d => ?_, kset.trans h.settings, kbanks.trans h.banks, kline.trans h.line, klots.trans h.lots,
    kmap.trans h.slotMap, kclock.trans h.clock⟩
  · rcases State.applyCutGrant_vat (s := t) x c v with e | e <;> rw [e] <;> exact h.vats v
  · by_cases hd : d = c
    · subst hd
      have hg := State.applyCutGrant_carriage_same (s := t) x d
      have same := h.carriage_of_free free
      rw [same] at free unblocked
      refine .inr ⟨free, unblocked, ?_, ?_, ?_, x.entry.vat, ?_, held, low, high⟩
      · rw [hg]; rfl
      · rw [hg, ← h.clock]; rfl
      · rw [hg, ← h.settings]; rfl
      · rw [hg]; rfl
    · have hg := State.applyCutGrant_carriage_ne (s := t) x hd
      rcases h.carriages d with e | ⟨h₁, h₂, h₃, h₄, h₅, h₆⟩
      · exact .inl (hg.trans e)
      · exact .inr ⟨h₁, h₂, by rwa [hg], by rwa [hg], by rwa [hg], by rwa [hg]⟩

theorem CutGrants.cutLook (s : State) : CutGrants s s.cutLook :=
  State.cutLook_keeps (CutGrants.refl s) fun _ _ _ ht _ hc => ht.grant (State.carriageFor_eligible hc)

/-- A look under a freeze, without the station or without room makes no grant (R93, R110, R148). -/
theorem State.cutLook_of_stopped
    (h : s.frozen.carriages = true ∨ s.present .cut = false ∨ (s.link .cut).hasRoom = false) : s.cutLook = s := by
  have hn : s.grantCut = none := by
    unfold State.grantCut
    rw [if_pos]
    rcases h with h | h | h <;> simp [h]
  rw [State.cutLook, hn]

/-- Settles O37: a look grants FREE carriages to eligible entries alone, and changes nothing else. -/
theorem cutGrantsAreSafe : Obligations.CutGrantsAreSafe := by
  intro s
  have h := CutGrants.cutLook s
  refine ⟨State.cutLook_of_stopped, h.vats, fun c hc => ?_, h.settings, h.banks, h.line, h.lots, h.slotMap, h.clock⟩
  obtain ⟨free, unblocked, ordered, orderedAt, start, vat⟩ := (h.carriages c).resolve_left hc
  exact ⟨free, unblocked, ordered, orderedAt, start, vat⟩

end Sys2Proof.Machine
end

