-- ==== Sys2Proof/Proofs/LotNumbers.lean ====
section
/-! PROOFS. The lot number that the counter will issue lies in its range and is no lot's (R121): of thirteen numbers in turn,
twelve lots cannot have them all. -/

namespace Sys2Proof.Machine

/-- The `i`-th number from `n` on in turn. -/
theorem nextLot_iterate {n : Nat} (low : 1 ≤ n) (high : n ≤ 4095) (i : Nat) :
    nextLot^[i] n = (n - 1 + i) % 4095 + 1 := by
  induction i with
  | zero => rw [Function.iterate_zero_apply]; omega
  | succ i ih =>
    rw [Function.iterate_succ_apply', ih, nextLot]
    split_ifs <;> omega

theorem nextLot_iterate_injOn {n : Nat} (low : 1 ≤ n) (high : n ≤ 4095) {k : Nat} (hk : k ≤ 4095) :
    Set.InjOn (fun i => nextLot^[i] n) (Finset.range k) := by
  intro i hi j hj e
  simp only [nextLot_iterate low high, Finset.coe_range, Set.mem_Iio] at hi hj e
  omega

theorem freeLot_range {lots : List Lot} (fuel : Nat) {n : Nat} (low : 1 ≤ n) (high : n ≤ 4095) :
    1 ≤ freeLot lots fuel n ∧ freeLot lots fuel n ≤ 4095 := by
  induction fuel generalizing n with
  | zero => exact ⟨low, high⟩
  | succ fuel ih =>
    unfold freeLot
    split
    · refine ih ?_ ?_ <;> unfold nextLot <;> split <;> omega
    · exact ⟨low, high⟩

/-- When the number found is taken, every number from `n` on that was passed over is taken too. -/
theorem taken_of_freeLot_taken {lots : List Lot} {fuel n : Nat} (h : freeLot lots fuel n ∈ lots.map Lot.number) (i : Nat)
    (hi : i ≤ fuel) : nextLot^[i] n ∈ lots.map Lot.number := by
  induction fuel generalizing n i with
  | zero =>
    rw [Nat.le_zero.mp hi]
    exact h
  | succ fuel ih =>
    have taken : ∀ m, lots.any (fun x => decide (x.number = m)) = true ↔ m ∈ lots.map Lot.number := by simp
    unfold freeLot at h
    split at h
    · rename_i hn
      cases i with
      | zero => exact (taken n).mp hn
      | succ i => exact ih h i (Nat.le_of_succ_le_succ hi)
    · rename_i hn
      exact absurd ((taken n).mpr h) hn

/-- With one try more than there are lots, the number found is no lot's. -/
theorem freeLot_not_mem {lots : List Lot} {n : Nat} (low : 1 ≤ n) (high : n ≤ 4095) (hk : lots.length < 4095) :
    freeLot lots lots.length n ∉ lots.map Lot.number := by
  intro h
  have sub : (Finset.range (lots.length + 1)).image (fun i => nextLot^[i] n) ⊆ (lots.map Lot.number).toFinset := by
    intro m hm
    obtain ⟨i, hi, rfl⟩ := Finset.mem_image.mp hm
    exact List.mem_toFinset.mpr (taken_of_freeLot_taken h i (Nat.lt_succ_iff.mp (Finset.mem_range.mp hi)))
  have many : lots.length + 1 ≤ lots.length := calc
    lots.length + 1 = ((Finset.range (lots.length + 1)).image fun i => nextLot^[i] n).card := by
      rw [Finset.card_image_of_injOn (nextLot_iterate_injOn low high hk), Finset.card_range]
    _ ≤ (lots.map Lot.number).toFinset.card := Finset.card_le_card sub
    _ ≤ (lots.map Lot.number).length := List.toFinset_card_le _
    _ = lots.length := List.length_map _
  omega

/-- A counter whose number no lot has issues that number. -/
theorem freeLot_of_free {lots : List Lot} {n : Nat} (fuel : Nat) (h : ∀ x ∈ lots, x.number ≠ n) :
    freeLot lots fuel n = n := by
  cases fuel with
  | zero => rfl
  | succ fuel => rw [freeLot, if_neg (by simpa using h)]

end Sys2Proof.Machine
end

