-- ==== Sys2Proof/Proofs/LineGrants.lean ====
section
/-! PROOFS. When a look of the curd line arbiter grants, to which entry, and what the grant changes (O41). -/

namespace Sys2Proof.Machine

variable {s : State}

/-! ### One grant -/

/-- What a grant of the line leaves as it was. -/
theorem State.applyLineGrant_keeps (x : DumpChoice) :
    (s.applyLineGrant x).settings = s.settings ∧ (s.applyLineGrant x).banks = s.banks ∧
      (s.applyLineGrant x).carriages = s.carriages ∧ (s.applyLineGrant x).slotMap = s.slotMap ∧
      (s.applyLineGrant x).clock = s.clock := by
  obtain ⟨fromLate, entry, rest⟩ := x
  cases fromLate <;> exact ⟨rfl, rfl, rfl, rfl, rfl⟩

theorem State.applyLineGrant_lots (x : DumpChoice) : (s.applyLineGrant x).lots = s.lots ++ [s.lotFor x] := by
  obtain ⟨fromLate, entry, rest⟩ := x
  cases fromLate <;> rfl

theorem State.applyLineGrant_lateList (x : DumpChoice) :
    (s.applyLineGrant x).lateList = if x.fromLate then x.rest else s.lateList := by
  obtain ⟨fromLate, entry, rest⟩ := x
  cases fromLate <;> rfl

theorem State.applyLineGrant_line (x : DumpChoice) : (s.applyLineGrant x).line =
    { s.line with state := .ordered, current := some (s.lotFor x).number, orderedAt := some s.clock, startedAt := none,
                  start := some ⟨0, s.settings.dumpStartLimit⟩, lotCounter := nextLot (s.lotFor x).number } := by
  obtain ⟨fromLate, entry, rest⟩ := x
  cases fromLate <;> rfl

theorem State.applyLineGrant_vat_same (x : DumpChoice) :
    (s.applyLineGrant x).vat x.entry.vat = { s.vat x.entry.vat with lot := some (s.lotFor x).number } := by
  obtain ⟨fromLate, entry, rest⟩ := x
  simp only [State.applyLineGrant, State.raise_vat, State.modVat_vat_same, State.modLine_vat]
  cases fromLate <;> rfl

theorem State.applyLineGrant_vat_ne (x : DumpChoice) {v : Vat} (h : v ≠ x.entry.vat) :
    (s.applyLineGrant x).vat v = s.vat v := by
  obtain ⟨fromLate, entry, rest⟩ := x
  simp only [State.applyLineGrant, State.raise_vat, State.modVat_vat_ne _ _ h, State.modLine_vat]
  cases fromLate <;> rfl

/-- A grant writes the lot field of one vat (R41). -/
theorem State.applyLineGrant_vat (x : DumpChoice) (v : Vat) :
    { (s.applyLineGrant x).vat v with lot := (s.vat v).lot } = s.vat v := by
  by_cases h : v = x.entry.vat
  · subst h
    rw [State.applyLineGrant_vat_same]
  · rw [State.applyLineGrant_vat_ne x h]

/-- The kind of the lot is LATE for an entry of LATE alone (R120). -/
theorem DumpChoice.lotKind_late (x : DumpChoice) : x.lotKind = .late ↔ x.fromLate = true := by
  unfold DumpChoice.lotKind
  split
  · simp [*]
  · split <;> simp [*]

/-! ### The conditions of a look -/

/-- The grant conditions of R119 that do not speak of an entry. -/
def State.lineOpen (s : State) : Prop :=
  s.line.state = .free ∧ s.frozen.line = false ∧ s.present .press = true ∧ (s.link .press).hasRoom = true ∧
    s.lots.length < 12

theorem State.lineLook_of_chosen {x : DumpChoice} (h : s.lineOpen) (hx : s.chooseDump = some x) :
    s.lineLook = s.applyLineGrant x := by
  obtain ⟨hl, hf, hp, hr, hn⟩ := h
  simp [State.lineLook, State.grantLine, hl, hf, hp, hr, hn, hx, Config.lotRoom]

theorem State.lineLook_of_none (h : s.chooseDump = none) : s.lineLook = s := by
  simp [State.lineLook, State.grantLine, h]

theorem State.lineLook_of_not_open (h : ¬ s.lineOpen) : s.lineLook = s :=
  (State.lineLook_cases s).resolve_right fun g => h g.1

/-! ### The choice of an entry -/

theorem State.routineEligible_iff {e : DumpEntry} : s.routineEligible e = true ↔
    (s.vat e.vat).held = false ∧ (e.kind = .waste ∨ s.line.mouldsLow = false) := by
  simp [State.routineEligible, State.isHeld]

theorem State.routineEligible_false_iff {e : DumpEntry} : s.routineEligible e = false ↔
    (s.vat e.vat).held = true ∨ (e.kind = .normal ∧ s.line.mouldsLow = true) := by
  cases hh : (s.vat e.vat).held <;> cases hk : e.kind <;> simp [State.routineEligible, State.isHeld, hh, hk]

theorem pickLate_eq_none (h : ∀ y ∈ s.lateList, (s.vat y.vat).held = true) :
    pick? (fun e => !s.isHeld e.vat) s.lateList = none :=
  pick?_eq_none.mpr fun y hy => by simp [State.isHeld, h y hy]

/-- The head-most LATE entry whose vat is not held is chosen (R119). -/
theorem State.chooseDump_late {before behind : List DumpEntry} {e : DumpEntry} (hl : s.lateList = before ++ e :: behind)
    (hb : ∀ y ∈ before, (s.vat y.vat).held = true) (he : (s.vat e.vat).held = false) :
    s.chooseDump = some ⟨true, e, before ++ behind⟩ := by
  have hp : pick? (fun e => !s.isHeld e.vat) s.lateList = some (e, before ++ behind) :=
    pick?_eq_some.mpr ⟨before, behind, hl, rfl, by simp [State.isHeld, he], fun y hy => by simp [State.isHeld, hb y hy]⟩
  rw [State.chooseDump, hp]

/-- With every LATE vat held, the head-most ROUTINE entry that may be granted is chosen (R119). -/
theorem State.chooseDump_routine {before behind : List DumpEntry} {e : DumpEntry}
    (hlate : ∀ y ∈ s.lateList, (s.vat y.vat).held = true) (hr : s.routine = before ++ e :: behind)
    (hb : ∀ y ∈ before, (s.vat y.vat).held = true ∨ (y.kind = .normal ∧ s.line.mouldsLow = true))
    (he : s.routineEligible e = true) : s.chooseDump = some ⟨false, e, before ++ behind⟩ := by
  have hp : pick? s.routineEligible s.routine = some (e, before ++ behind) :=
    pick?_eq_some.mpr ⟨before, behind, hr, rfl, he, fun y hy => State.routineEligible_false_iff.mpr (hb y hy)⟩
  rw [State.chooseDump, pickLate_eq_none hlate]
  simp only [hp]

theorem State.chooseDump_none (hlate : ∀ y ∈ s.lateList, (s.vat y.vat).held = true)
    (hr : ∀ y ∈ s.routine, (s.vat y.vat).held = true ∨ (y.kind = .normal ∧ s.line.mouldsLow = true)) :
    s.chooseDump = none := by
  have hp : pick? s.routineEligible s.routine = none :=
    pick?_eq_none.mpr fun y hy => State.routineEligible_false_iff.mpr (hr y hy)
  rw [State.chooseDump, pickLate_eq_none hlate]
  simp only [hp]

/-- What R119 says of the chosen entry. -/
theorem State.chooseDump_granted {x : DumpChoice} (h : s.chooseDump = some x) : (s.vat x.entry.vat).held = false ∧
    (x.entry ∈ s.lateList ∨ (x.entry ∈ s.routine ∧ (x.entry.kind = .waste ∨ s.line.mouldsLow = false) ∧
      ∀ e ∈ s.lateList, (s.vat e.vat).held = true)) := by
  rcases State.chooseDump_eq_some h with ⟨-, hp⟩ | ⟨-, hlate, hp⟩
  · obtain ⟨before, behind, hl, -, he, -⟩ := pick?_eq_some.mp hp
    exact ⟨by simpa [State.isHeld] using he, .inl (by simp [hl])⟩
  · obtain ⟨before, behind, hl, -, he, -⟩ := pick?_eq_some.mp hp
    obtain ⟨held, kind⟩ := State.routineEligible_iff.mp he
    refine ⟨held, .inr ⟨by simp [hl], kind, fun e he => ?_⟩⟩
    simpa [State.isHeld] using pick?_eq_none.mp hlate e he

/-- The LATE list changes when the entry was taken from it, and not otherwise. -/
theorem State.lateList_ne_iff {x : DumpChoice} (h : s.chooseDump = some x) :
    s.lateList ≠ (s.applyLineGrant x).lateList ↔ x.fromLate = true := by
  rw [State.applyLineGrant_lateList]
  rcases State.chooseDump_eq_some h with ⟨hx, hp⟩ | ⟨hx, -, -⟩
  · obtain ⟨before, behind, hl, hrest, -, -⟩ := pick?_eq_some.mp hp
    simp [hx, hl, hrest]
  · simp [hx]

/-! ### What a look grants -/

/-- A look that changes the line has granted it. -/
theorem State.lineLook_of_line_ne (h : s.lineLook.line ≠ s.line) :
    ∃ x, s.chooseDump = some x ∧ s.lineLook = s.applyLineGrant x := by
  rcases State.lineLook_cases s with e | ⟨-, g⟩
  · exact absurd (congrArg State.line e) h
  · exact g

/-- Settles O41: the line is granted to the entry that R119 chooses, its lot is made from that entry, and its number is
fresh. -/
theorem lineGrantsAreSafe : Obligations.LineGrantsAreSafe := by
  refine ⟨fun s => ⟨fun h => State.lineLook_of_not_open ?_, fun h => ?_, ?_⟩, fun s hl hf hp hr hn hc => ?_,
    fun s hlots low high => ?_⟩
  · rintro ⟨hl, hf, hp, hr, hn⟩
    rcases h with h | h | h | h | h
    · exact h hl
    · simp [hf] at h
    · simp [hp] at h
    · simp [hr] at h
    · omega
  · obtain ⟨x, hx, e⟩ := State.lineLook_of_line_ne h
    obtain ⟨held, stood⟩ := State.chooseDump_granted hx
    have hline := State.applyLineGrant_line (s := s) x
    rw [e]
    refine ⟨x.entry, s.lotFor x, held, stood, State.applyLineGrant_lots x, rfl, rfl, rfl, rfl, rfl, rfl, rfl, ?_, ?_, ?_, ?_,
      ?_⟩
    · rw [State.lateList_ne_iff hx]
      exact x.lotKind_late
    · rw [hline]
    · rw [hline]
    · rw [hline]
    · rw [State.applyLineGrant_vat_same]
  · rcases State.lineLook_cases s with e | ⟨-, x, -, e⟩
    · rw [e]
      exact ⟨fun v => rfl, rfl, rfl, rfl, rfl, rfl⟩
    · rw [e]
      exact ⟨State.applyLineGrant_vat x, State.applyLineGrant_keeps x⟩
  · have ho : s.lineOpen := by
      obtain ⟨n, hp⟩ := hp
      exact ⟨hl, hf, by simp [State.present, hp], hr, hn⟩
    have order : after s.clock s.settings.dumpStartLimit = s.clock + s.settings.dumpStartLimit := after_of_lt hc
    refine ⟨fun before e behind hlist hb he => ?_, fun hlate => ⟨fun before e behind hlist hb he => ⟨fun hk => ?_,
      fun hk hm => ?_⟩, fun hr => State.lineLook_of_none (State.chooseDump_none hlate hr)⟩⟩
    · rw [State.lineLook_of_chosen ho (State.chooseDump_late hlist hb he), ← order]
      rfl
    · have hx := State.chooseDump_routine hlate hlist hb (State.routineEligible_iff.mpr ⟨he, .inl hk⟩)
      rw [State.lineLook_of_chosen ho hx, ← order]
      simp only [State.applyLineGrant, State.lotFor, State.dumpOrderFor, DumpChoice.lotKind, hk]
      rfl
    · have hx := State.chooseDump_routine hlate hlist hb (State.routineEligible_iff.mpr ⟨he, .inr hm⟩)
      rw [State.lineLook_of_chosen ho hx, ← order]
      simp only [State.applyLineGrant, State.lotFor, State.dumpOrderFor, DumpChoice.lotKind, hk]
      rfl
  · obtain ⟨hlow, hhigh⟩ := freeLot_range (lots := s.lots) s.lots.length low high
    have fresh := freeLot_not_mem (lots := s.lots) low high (by omega)
    exact ⟨hlow, hhigh, fun x hx e => fresh (List.mem_map.mpr ⟨x, hx, e⟩), freeLot_of_free _⟩

end Sys2Proof.Machine
end

section
/-! PROOFS. Where each vat is named, counted place by place: what R21 asks of a vat is that it is named as often as its seat
says, and a seat is one place, or none, that goes with its stage. -/

namespace Sys2Proof.Machine

variable {s t u : State} {v w : Vat}

/-! ### Namings and seats -/

/-- How often a place names a vat. -/
def State.named (s : State) (v : Vat) : Place → Nat
  | .bankList b kind => (s.bank b).list.countP fun e => decide (e.vat = v ∧ e.kind = kind)
  | .bankTransfer b kind => (s.bank b).current.toList.countP fun c => decide (c.entry.vat = v ∧ c.entry.kind = kind)
  | .cutList => (s.urgent ++ s.openList).countP fun e => decide (e.vat = v)
  | .carriage c => if (s.carriage c).vat = some v then 1 else 0
  | .dumpList => (s.lateList ++ s.routine).countP fun e => decide (e.vat = v)
  | .line => s.currentLot.toList.countP fun x => decide (x.vat = v)

theorem count_map_filter {α : Type} (p : Place) (g : α → Place) (q : α → Bool) (l : List α) :
    ((l.filter q).map g).count p = l.countP fun a => decide (g a = p) && q a := by
  rw [List.count, List.countP_map, List.countP_filter]
  simp only [Function.comp_def, beq_eq_decide]

theorem State.count_places (s : State) (v : Vat) (p : Place) : (s.places v).count p = s.named v p := by
  simp only [State.places, List.count_append, allBanks, allCarriages, List.flatMap_cons, List.flatMap_nil,
    List.count_nil, count_map_filter]
  cases p with
  | bankList b kind => fin_cases b <;> simp [State.named, and_comm]
  | bankTransfer b kind => fin_cases b <;> simp [State.named, and_comm]
  | cutList => simp [State.named]
  | carriage c => fin_cases c <;> simp [State.named, List.countP_cons]
  | dumpList => simp [State.named]
  | line => simp [State.named]

/-- The namings of a vat that has one seat, or none. -/
def onlyAt (o : Option Place) (p : Place) : Nat := if o = some p then 1 else 0

theorem State.places_eq_toList_iff {o : Option Place} : s.places v = o.toList ↔ s.named v = onlyAt o := by
  have hcount : ∀ p, o.toList.count p = onlyAt o p := by
    intro p
    cases o <;> simp [onlyAt, List.count_singleton]
  constructor
  · intro h
    funext p
    rw [← State.count_places, h, hcount]
  · intro h
    have hp : (s.places v).Perm o.toList := List.perm_iff_count.mpr fun p => by rw [State.count_places, h, hcount]
    cases o with
    | none => exact hp.eq_nil
    | some p => exact List.perm_singleton.mp hp

/-- The stages of a vat that its bank's list or transfer of a kind can hold. -/
def TransferKind.listed : TransferKind → List Stage
  | .fill => [.fillQueued, .filling]
  | .wash => [.washing]

/-- The stage of a vat whose transfer of a kind its bank has taken. -/
def TransferKind.fed : TransferKind → Stage
  | .fill => .filling
  | .wash => .washing

/-- What a vat's record must be for the vat to be named at one place, or at none (R1, R21). -/
def State.Seat (s : State) (v : Vat) : Option Place → Prop
  | none => (s.vat v).stage ∈ [Stage.vacant, .charged, .setting, .working, .overset] ∧ (s.vat v).carriage = none ∧
      (s.vat v).lot = none
  | some (.bankList b kind) => b = s.bankOf v ∧ (s.vat v).stage ∈ kind.listed ∧ (s.vat v).carriage = none ∧
      (s.vat v).lot = none
  | some (.bankTransfer b kind) => b = s.bankOf v ∧ (s.vat v).stage = kind.fed ∧ (s.vat v).carriage = none ∧
      (s.vat v).lot = none
  | some .cutList => (s.vat v).stage = .cutWindow ∧ (s.vat v).carriage = none ∧ (s.vat v).lot = none
  | some (.carriage c) => ((s.vat v).stage = .cutWindow ∧ (s.carriage c).state = .ordered ∨
      (s.vat v).stage = .cutting ∧ (s.carriage c).state ≠ .ordered) ∧ (s.vat v).carriage = some c ∧ (s.vat v).lot = none
  | some .dumpList => (s.vat v).stage = .dumpQueued ∧ (s.vat v).carriage = none ∧ (s.vat v).lot = none
  | some .line => ((s.vat v).stage = .dumpQueued ∧ s.line.state = .ordered ∨
      (s.vat v).stage = .dumping ∧ s.line.state ≠ .ordered) ∧ (s.vat v).carriage = none ∧ (s.vat v).lot = s.line.current

theorem State.places_eq_nil_iff : s.places v = [] ↔ s.named v = onlyAt none := State.places_eq_toList_iff (o := none)

theorem State.places_eq_singleton_iff {p : Place} : s.places v = [p] ↔ s.named v = onlyAt (some p) :=
  State.places_eq_toList_iff (o := some p)

/-- A vat is named as R21 says exactly when it has a seat and is named there alone. -/
theorem State.claimed_iff : s.claimed v ↔ ∃ o, s.named v = onlyAt o ∧ s.Seat v o := by
  unfold State.claimed State.inBank
  simp only [State.places_eq_nil_iff, State.places_eq_singleton_iff]
  constructor
  · intro h
    split at h
    case h_6 e => exact ⟨_, h.1, rfl, by simp [e, TransferKind.listed], h.2⟩
    case h_7 e =>
      rcases h.1 with hn | hn
      · exact ⟨_, hn, rfl, by simp [e, TransferKind.listed], h.2⟩
      · exact ⟨_, hn, rfl, e, h.2⟩
    case h_8 e =>
      rcases h.1 with hn | hn
      · exact ⟨_, hn, rfl, by simp [e, TransferKind.listed], h.2⟩
      · exact ⟨_, hn, rfl, e, h.2⟩
    case h_9 e =>
      obtain ⟨hl, ⟨hn, hc⟩ | ⟨c, hn, hc, ho⟩⟩ := h
      · exact ⟨_, hn, e, hc, hl⟩
      · exact ⟨_, hn, .inl ⟨e, ho⟩, hc, hl⟩
    case h_10 e =>
      obtain ⟨hl, c, hn, hc, ho⟩ := h
      exact ⟨_, hn, .inr ⟨e, ho⟩, hc, hl⟩
    case h_11 e =>
      obtain ⟨hc, ⟨hn, hl⟩ | ⟨hn, hl, ho⟩⟩ := h
      · exact ⟨_, hn, e, hc, hl⟩
      · exact ⟨_, hn, .inl ⟨e, ho⟩, hc, hl⟩
    case h_12 e =>
      obtain ⟨hc, hn, hl, ho⟩ := h
      exact ⟨_, hn, .inr ⟨e, ho⟩, hc, hl⟩
    all_goals
      rename_i e
      exact ⟨none, h.1, by simp [e], h.2⟩
  · rintro ⟨o, hn, hs⟩
    rcases o with _ | ⟨b, _ | _⟩ | ⟨b, _ | _⟩ | _ | c | _ | _
    · obtain ⟨hst, hf⟩ := hs
      simp only [List.mem_cons, List.not_mem_nil, or_false] at hst
      rcases hst with e | e | e | e | e <;> (rw [e]; exact ⟨hn, hf⟩)
    · obtain ⟨rfl, hst, hf⟩ := hs
      simp only [TransferKind.listed, List.mem_cons, List.not_mem_nil, or_false] at hst
      rcases hst with e | e <;> rw [e]
      · exact ⟨hn, hf⟩
      · exact ⟨.inl hn, hf⟩
    · obtain ⟨rfl, hst, hf⟩ := hs
      rw [List.mem_singleton.mp hst]
      exact ⟨.inl hn, hf⟩
    · obtain ⟨rfl, e, hf⟩ := hs
      rw [e]
      exact ⟨.inr hn, hf⟩
    · obtain ⟨rfl, e, hf⟩ := hs
      rw [e]
      exact ⟨.inr hn, hf⟩
    · obtain ⟨e, hc, hl⟩ := hs
      rw [e]
      exact ⟨hl, .inl ⟨hn, hc⟩⟩
    · obtain ⟨⟨e, ho⟩ | ⟨e, ho⟩, hc, hl⟩ := hs <;> rw [e]
      · exact ⟨hl, .inr ⟨c, hn, hc, ho⟩⟩
      · exact ⟨hl, c, hn, hc, ho⟩
    · obtain ⟨e, hc, hl⟩ := hs
      rw [e]
      exact ⟨hc, .inl ⟨hn, hl⟩⟩
    · obtain ⟨⟨e, ho⟩ | ⟨e, ho⟩, hc, hl⟩ := hs <;> rw [e]
      · exact ⟨hc, .inr ⟨hn, hl, ho⟩⟩
      · exact ⟨hc, hn, hl, ho⟩

@[simp] theorem onlyAt_none (p : Place) : onlyAt none p = 0 := rfl

theorem onlyAt_ne_zero {o : Option Place} {p : Place} (h : onlyAt o p ≠ 0) : o = some p := by
  by_contra hn
  exact h (if_neg hn)

/-- A vat that a place names has its one seat there. -/
theorem State.claimed.seat_of_named (h : s.claimed v) {p : Place} (hp : s.named v p ≠ 0) :
    s.named v = onlyAt (some p) ∧ s.Seat v (some p) := by
  obtain ⟨o, hn, hs⟩ := State.claimed_iff.mp h
  rw [hn] at hp
  cases onlyAt_ne_zero hp
  exact ⟨hn, hs⟩

/-- A vat in a stage without a seat is named nowhere. -/
theorem State.claimed.unseated (h : s.claimed v)
    (hv : (s.vat v).stage ∈ [Stage.vacant, .charged, .setting, .working, .overset]) :
    s.named v = onlyAt none ∧ s.Seat v none := by
  obtain ⟨o, hn, hs⟩ := State.claimed_iff.mp h
  simp only [List.mem_cons, List.not_mem_nil, or_false] at hv
  rcases o with _ | ⟨b, _ | _⟩ | ⟨b, _ | _⟩ | _ | c | _ | _
  case none => exact ⟨hn, hs⟩
  all_goals
    simp only [State.Seat, TransferKind.listed, TransferKind.fed, List.mem_cons, List.not_mem_nil, or_false] at hs
    grind

end Sys2Proof.Machine
end

section
/-! PROOFS. How an operation changes what names a vat: nothing, or one vat leaves a seat and takes another. -/

namespace Sys2Proof.Machine

variable {s t u : State} {v w : Vat} {o o' o'' : Option Place}

/-! ### Nothing moves -/

/-- Every vat is named as before, and what its seat reads of the other records is as before. -/
structure Keeps (s t : State) : Prop where
  named : ∀ v, t.named v = s.named v
  vats : ∀ v, (t.vat v).stage = (s.vat v).stage ∧ (t.vat v).carriage = (s.vat v).carriage ∧ (t.vat v).lot = (s.vat v).lot
  bankOf : ∀ v, t.bankOf v = s.bankOf v
  carried : ∀ c v, s.named v (.carriage c) ≠ 0 → ((t.carriage c).state = .ordered ↔ (s.carriage c).state = .ordered)
  line : ∀ v, s.named v .line ≠ 0 →
    t.line.current = s.line.current ∧ (t.line.state = .ordered ↔ s.line.state = .ordered)

theorem Keeps.refl (s : State) : Keeps s s :=
  ⟨fun _ => rfl, fun _ => ⟨rfl, rfl, rfl⟩, fun _ => rfl, fun _ _ _ => .rfl, fun _ _ => ⟨rfl, .rfl⟩⟩

/-! ### One vat moves -/

/-- The vat `w` leaves the seat `o` and takes the seat `o'`; every other vat is named as before, and what its seat reads of
the other records is as before. -/
structure Reseats (w : Vat) (o o' : Option Place) (s t : State) : Prop where
  counts : ∀ v p, t.named v p + (if v = w then onlyAt o p else 0) = s.named v p + (if v = w then onlyAt o' p else 0)
  vats : ∀ v, v ≠ w →
    (t.vat v).stage = (s.vat v).stage ∧ (t.vat v).carriage = (s.vat v).carriage ∧ (t.vat v).lot = (s.vat v).lot
  bankOf : ∀ v, t.bankOf v = s.bankOf v
  carried : ∀ c v, v ≠ w → s.named v (.carriage c) ≠ 0 →
    ((t.carriage c).state = .ordered ↔ (s.carriage c).state = .ordered)
  line : ∀ v, v ≠ w → s.named v .line ≠ 0 →
    t.line.current = s.line.current ∧ (t.line.state = .ordered ↔ s.line.state = .ordered)

theorem Keeps.reseats (h : Keeps s t) (w : Vat) (o : Option Place) : Reseats w o o s t :=
  ⟨fun v p => by rw [h.named v], fun v _ => h.vats v, h.bankOf, fun c v _ => h.carried c v, fun v _ => h.line v⟩

theorem Reseats.named_ne (h : Reseats w o o' s t) (hv : v ≠ w) : t.named v = s.named v := by
  funext p
  simpa [hv] using h.counts v p

theorem Reseats.named_same (h : Reseats w o o' s t) (hs : s.named w = onlyAt o) : t.named w = onlyAt o' := by
  funext p
  have hc := h.counts w p
  rw [hs] at hc
  simp only [if_true] at hc
  omega

theorem Reseats.trans (h : Reseats w o o' s t) (h' : Reseats w o' o'' t u) : Reseats w o o'' s u := by
  refine ⟨fun v p => ?_, fun v hv => ?_, fun v => (h'.bankOf v).trans (h.bankOf v), fun c v hv hn => ?_,
    fun v hv hn => ?_⟩
  · have h₁ := h.counts v p
    have h₂ := h'.counts v p
    omega
  · obtain ⟨h₁, h₂, h₃⟩ := h.vats v hv
    obtain ⟨h₁', h₂', h₃'⟩ := h'.vats v hv
    exact ⟨h₁'.trans h₁, h₂'.trans h₂, h₃'.trans h₃⟩
  · exact (h'.carried c v hv (by rwa [h.named_ne hv])).trans (h.carried c v hv hn)
  · obtain ⟨h₁, h₂⟩ := h.line v hv hn
    obtain ⟨h₁', h₂'⟩ := h'.line v hv (by rwa [h.named_ne hv])
    exact ⟨h₁'.trans h₁, h₂'.trans h₂⟩

/-- A vat that does not move keeps its claim. -/
theorem Reseats.claimed (h : Reseats w o o' s t) (hv : v ≠ w) (hs : s.claimed v) : t.claimed v := by
  obtain ⟨p, hn, hp⟩ := State.claimed_iff.mp hs
  refine State.claimed_iff.mpr ⟨p, (h.named_ne hv).trans hn, ?_⟩
  obtain ⟨h₁, h₂, h₃⟩ := h.vats v hv
  have hb := h.bankOf v
  rcases p with _ | ⟨b, k⟩ | ⟨b, k⟩ | _ | c | _ | _
  · simpa only [State.Seat, h₁, h₂, h₃] using hp
  · simpa only [State.Seat, h₁, h₂, h₃, hb] using hp
  · simpa only [State.Seat, h₁, h₂, h₃, hb] using hp
  · simpa only [State.Seat, h₁, h₂, h₃] using hp
  · have hc := h.carried c v hv (by simp [hn, onlyAt])
    simpa only [State.Seat, h₁, h₂, h₃, hc, Ne] using hp
  · simpa only [State.Seat, h₁, h₂, h₃] using hp
  · obtain ⟨hl, ho⟩ := h.line v hv (by simp [hn, onlyAt])
    simpa only [State.Seat, h₁, h₂, h₃, hl, ho, Ne] using hp

/-- When one vat moves, the claims hold after it if its new seat fits its record. -/
theorem Reseats.claims (h : Reseats w o o' s t) (hs : ClaimsHold s) (ho : s.named w = onlyAt o) (hw : t.Seat w o') :
    ClaimsHold t := by
  intro v
  by_cases hv : v = w
  · subst hv
    exact State.claimed_iff.mpr ⟨o', h.named_same ho, hw⟩
  · exact h.claimed hv (hs v)

/-- When nothing moves, the claims hold on. -/
theorem Keeps.claims (h : Keeps s t) (hs : ClaimsHold s) : ClaimsHold t := by
  intro v
  have hw : (v + 1 : Vat) ≠ v := by revert v; decide
  exact (h.reseats (v + 1) none).claimed hw.symm (hs v)

/-! ### Operations that move nothing -/

/-- A state with the same records, lists and zones. -/
theorem Keeps.of_records (hv : t.vats = s.vats) (hb : t.banks = s.banks) (hu : t.urgent = s.urgent)
    (ho : t.openList = s.openList) (hc : t.carriages = s.carriages) (hll : t.lateList = s.lateList)
    (hr : t.routine = s.routine) (hlots : t.lots = s.lots) (hcur : t.line.current = s.line.current)
    (hst : t.line.state = .ordered ↔ s.line.state = .ordered) (hz : t.settings.zoneEnds = s.settings.zoneEnds) :
    Keeps s t := by
  have hvat : ∀ v, t.vat v = s.vat v := fun v => by simp only [State.vat, hv]
  have hbank : ∀ b, t.bank b = s.bank b := fun b => by simp only [State.bank, hb]
  have hcar : ∀ c, t.carriage c = s.carriage c := fun c => by simp only [State.carriage, hc]
  have hlot : t.currentLot = s.currentLot := by
    unfold State.currentLot
    rw [hcur]
    exact congrArg _ (funext fun n => by rw [State.findLot, State.findLot, hlots])
  refine ⟨fun v => funext fun p => ?_, fun v => by simp only [hvat, true_and], fun v => ?_, fun c v _ => by rw [hcar],
    fun v _ => ⟨hcur, hst⟩⟩
  · cases p <;> simp only [State.named, hbank, hcar, hlot, hu, ho, hll, hr]
  · have hend : t.settings.zoneEnd = s.settings.zoneEnd := funext fun b => by simp only [Settings.zoneEnd, hz]
    unfold State.bankOf Settings.bankOf
    rw [hend]

theorem Keeps.raise (s : State) (l : Link) (n : Notice) : Keeps s (s.raise l n) :=
  .of_records rfl rfl rfl rfl rfl rfl rfl rfl rfl .rfl rfl

theorem Keeps.raiseBoth (s : State) (l l' : Link) (n : Notice) : Keeps s (s.raiseBoth l l' n) :=
  .of_records rfl rfl rfl rfl rfl rfl rfl rfl rfl .rfl rfl

/-- A vat record changed in fields that no seat reads. -/
theorem Keeps.modVat (s : State) (v : Vat) {f : VatRecord → VatRecord} (hs : (f (s.vat v)).stage = (s.vat v).stage)
    (hc : (f (s.vat v)).carriage = (s.vat v).carriage) (hl : (f (s.vat v)).lot = (s.vat v).lot) :
    Keeps s (s.modVat v f) := by
  refine ⟨fun _ => rfl, fun w => ?_, fun _ => rfl, fun _ _ _ => .rfl, fun _ _ => ⟨rfl, .rfl⟩⟩
  by_cases hw : w = v
  · subst hw
    rw [State.modVat_vat_same]
    exact ⟨hs, hc, hl⟩
  · rw [State.modVat_vat_ne _ _ hw]
    exact ⟨rfl, rfl, rfl⟩

/-- The vat and the kind of a bank's current transfer. -/
def BankRecord.feeding (k : BankRecord) : Option (Vat × TransferKind) :=
  k.current.map fun c => (c.entry.vat, c.entry.kind)

theorem BankRecord.countP_current (k : BankRecord) (v : Vat) (kind : TransferKind) :
    (k.current.toList.countP fun c => decide (c.entry.vat = v ∧ c.entry.kind = kind)) =
      if k.feeding = some (v, kind) then 1 else 0 := by
  unfold BankRecord.feeding
  cases k.current <;> simp [List.countP_cons]

/-- A bank record whose list and transfer name the same vats. -/
theorem Keeps.modBank (s : State) (b : Bank) {f : BankRecord → BankRecord} (hl : (f (s.bank b)).list = (s.bank b).list)
    (hc : (f (s.bank b)).feeding = (s.bank b).feeding) : Keeps s (s.modBank b f) := by
  refine ⟨fun v => ?_, fun _ => ⟨rfl, rfl, rfl⟩, fun _ => rfl, fun _ _ _ => .rfl, fun _ _ => ⟨rfl, .rfl⟩⟩
  funext p
  cases p
  case bankList b' kind =>
    by_cases hb : b' = b
    · subst hb
      simp [State.named, hl]
    · simp [State.named, hb]
  case bankTransfer b' kind =>
    by_cases hb : b' = b
    · subst hb
      simp only [State.named, State.modBank_bank_same, BankRecord.countP_current, hc]
    · simp [State.named, hb]
  all_goals rfl

/-- A carriage record that holds the same vat and is ORDERED as before. -/
theorem Keeps.modCarriage (s : State) (c : Carriage) {f : CarriageRecord → CarriageRecord}
    (hv : (f (s.carriage c)).vat = (s.carriage c).vat)
    (ho : (s.carriage c).vat.isSome → ((f (s.carriage c)).state = .ordered ↔ (s.carriage c).state = .ordered)) :
    Keeps s (s.modCarriage c f) := by
  refine ⟨fun v => ?_, fun _ => ⟨rfl, rfl, rfl⟩, fun _ => rfl, fun d v hd => ?_, fun _ _ => ⟨rfl, .rfl⟩⟩
  · funext p
    cases p
    case carriage d =>
      by_cases hd : d = c
      · subst hd
        simp only [State.named, State.modCarriage_carriage_same, hv]
      · simp [State.named, hd]
    all_goals rfl
  · by_cases hdc : d = c
    · subst hdc
      rw [State.modCarriage_carriage_same]
      refine ho ?_
      have : (s.carriage d).vat = some v := by
        by_contra hn
        exact hd (if_neg hn)
      simp [this]
    · rw [State.modCarriage_carriage_ne _ _ hdc]

/-- The cut lists with the same entries, in another order. -/
theorem Keeps.cutLists (s : State) {urgent openList : List CutEntry}
    (h : (urgent ++ openList).Perm (s.urgent ++ s.openList)) : Keeps s { s with urgent := urgent, openList := openList } := by
  refine ⟨fun v => ?_, fun _ => ⟨rfl, rfl, rfl⟩, fun _ => rfl, fun _ _ _ => .rfl, fun _ _ => ⟨rfl, .rfl⟩⟩
  funext p
  cases p
  case cutList => exact h.countP_eq _
  all_goals rfl

/-- The dump lists with the same entries, in another order. -/
theorem Keeps.dumpLists (s : State) {late routine : List DumpEntry}
    (h : (late ++ routine).Perm (s.lateList ++ s.routine)) : Keeps s { s with lateList := late, routine := routine } := by
  refine ⟨fun v => ?_, fun _ => ⟨rfl, rfl, rfl⟩, fun _ => rfl, fun _ _ _ => .rfl, fun _ _ => ⟨rfl, .rfl⟩⟩
  funext p
  cases p
  case dumpList => exact h.countP_eq _
  all_goals rfl

/-! ### Operations that move one vat -/

/-- Only the record of the vat that moves is changed. -/
theorem Reseats.modVat (s : State) (w : Vat) (f : VatRecord → VatRecord) (o : Option Place) :
    Reseats w o o s (s.modVat w f) := by
  refine ⟨fun _ _ => rfl, fun v hv => ?_, fun _ => rfl, fun _ _ _ _ => .rfl, fun _ _ _ => ⟨rfl, .rfl⟩⟩
  rw [State.modVat_vat_ne _ _ hv]
  exact ⟨rfl, rfl, rfl⟩

/-- A bank record changed, by what its list and its transfer name. -/
theorem Reseats.modBank (s : State) (b : Bank) {f : BankRecord → BankRecord}
    (hl : ∀ v kind, ((f (s.bank b)).list.countP fun e => decide (e.vat = v ∧ e.kind = kind)) +
        (if v = w then onlyAt o (.bankList b kind) else 0) =
      ((s.bank b).list.countP fun e => decide (e.vat = v ∧ e.kind = kind)) +
        (if v = w then onlyAt o' (.bankList b kind) else 0))
    (hc : ∀ v kind, (if (f (s.bank b)).feeding = some (v, kind) then 1 else 0) +
        (if v = w then onlyAt o (.bankTransfer b kind) else 0) =
      (if (s.bank b).feeding = some (v, kind) then 1 else 0) +
        (if v = w then onlyAt o' (.bankTransfer b kind) else 0))
    (he : ∀ p, (∀ kind, p ≠ .bankList b kind) → (∀ kind, p ≠ .bankTransfer b kind) → onlyAt o p = onlyAt o' p) :
    Reseats w o o' s (s.modBank b f) := by
  refine ⟨fun v p => ?_, fun _ _ => ⟨rfl, rfl, rfl⟩, fun _ => rfl, fun _ _ _ _ => .rfl, fun _ _ _ => ⟨rfl, .rfl⟩⟩
  cases p
  case bankList b' kind =>
    by_cases hb : b' = b
    · subst hb
      simpa only [State.named, State.modBank_bank_same] using hl v kind
    · rw [he _ (by simp [hb]) (by simp)]
      simp [State.named, hb]
  case bankTransfer b' kind =>
    by_cases hb : b' = b
    · subst hb
      simpa only [State.named, State.modBank_bank_same, BankRecord.countP_current] using hc v kind
    · rw [he _ (by simp) (by simp [hb])]
      simp [State.named, hb]
  all_goals
    rw [he _ (by simp) (by simp)]
    rfl

/-- An entry joins a bank's list. -/
theorem Reseats.appendTransfer (s : State) (b : Bank) (e : Transfer) :
    Reseats e.vat none (some (.bankList b e.kind)) s (s.modBank b fun k => { k with list := k.list ++ [e] }) := by
  refine .modBank s b (fun v kind => ?_) (fun v kind => by simp [onlyAt, BankRecord.feeding]) fun p hp _ => ?_
  · by_cases hv : v = e.vat
    · subst hv
      simp [onlyAt, List.countP_append, List.countP_cons]
    · simp [List.countP_append, hv, Ne.symm hv]
  · simp [onlyAt, Ne.symm (hp e.kind)]

/-- A bank with no transfer takes an entry of its list. -/
theorem Reseats.takeEntry (s : State) (b : Bank) {f : BankRecord → BankRecord} {before behind : List Transfer}
    {e : Transfer} (hl : (s.bank b).list = before ++ e :: behind) (hc : (s.bank b).current = none)
    (hl' : (f (s.bank b)).list = before ++ behind) (hc' : (f (s.bank b)).feeding = some (e.vat, e.kind)) :
    Reseats e.vat (some (.bankList b e.kind)) (some (.bankTransfer b e.kind)) s (s.modBank b f) := by
  refine .modBank s b (fun v kind => ?_) (fun v kind => ?_) fun p hp hp' => ?_
  · rw [hl, hl']
    by_cases hv : v = e.vat
    · subst hv
      simp [onlyAt, List.countP_append, List.countP_cons, Nat.add_assoc]
    · simp [List.countP_append, hv, Ne.symm hv]
  · rw [hc']
    by_cases hv : v = e.vat
    · subst hv
      simp [onlyAt, BankRecord.feeding, hc]
    · simp [BankRecord.feeding, hc, hv, Ne.symm hv]
  · simp [onlyAt, Ne.symm (hp e.kind), Ne.symm (hp' e.kind)]

/-- A bank's transfer goes back to the head of its list. -/
theorem Reseats.suspend (s : State) (b : Bank) {f : BankRecord → BankRecord} {c : Current} {e : Transfer}
    (hc : (s.bank b).current = some c) (hv : e.vat = c.entry.vat) (hk : e.kind = c.entry.kind)
    (hl' : (f (s.bank b)).list = e :: (s.bank b).list) (hc' : (f (s.bank b)).current = none) :
    Reseats c.entry.vat (some (.bankTransfer b c.entry.kind)) (some (.bankList b c.entry.kind)) s (s.modBank b f) := by
  refine .modBank s b (fun v kind => ?_) (fun v kind => ?_) fun p hp hp' => ?_
  · rw [hl']
    by_cases h : v = c.entry.vat
    · subst h
      simp [onlyAt, List.countP_cons, hv, hk]
    · simp [hv, h, Ne.symm h]
  · by_cases h : v = c.entry.vat
    · subst h
      simp [onlyAt, BankRecord.feeding, hc, hc']
    · simp [BankRecord.feeding, hc, hc', h, Ne.symm h]
  · simp [onlyAt, Ne.symm (hp _), Ne.symm (hp' _)]

/-- A bank's transfer ends. -/
theorem Reseats.endTransfer (s : State) (b : Bank) {f : BankRecord → BankRecord} {c : Current}
    (hc : (s.bank b).current = some c) (hl' : (f (s.bank b)).list = (s.bank b).list)
    (hc' : (f (s.bank b)).current = none) :
    Reseats c.entry.vat (some (.bankTransfer b c.entry.kind)) none s (s.modBank b f) := by
  refine .modBank s b (fun v kind => ?_) (fun v kind => ?_) fun p hp hp' => ?_
  · simp [hl', onlyAt]
  · by_cases h : v = c.entry.vat
    · subst h
      simp [onlyAt, BankRecord.feeding, hc, hc']
    · simp [BankRecord.feeding, hc, hc', h, Ne.symm h]
  · simp [onlyAt, Ne.symm (hp' _)]

/-- The entry of a vat leaves a bank's list. -/
theorem Reseats.dropTransfer {b : Bank} {kind : TransferKind} (h : s.named w = onlyAt (some (.bankList b kind))) :
    Reseats w (some (.bankList b kind)) none s (s.dropTransfer b w) := by
  have hlist : ∀ k, ((s.bank b).list.countP fun e => decide (e.vat = w ∧ e.kind = k)) = if kind = k then 1 else 0 := by
    intro k
    have := congrFun h (.bankList b k)
    simpa [State.named, onlyAt] using this
  have hmem : ∃ e ∈ (s.bank b).list, decide (e.vat = w) = true := by
    obtain ⟨e, he, hp⟩ := List.countP_pos_iff.mp (by rw [hlist kind, if_pos rfl]; exact Nat.one_pos)
    simp only [decide_eq_true_eq] at hp
    exact ⟨e, he, by simpa using hp.1⟩
  cases hp : pick? (fun e => decide (e.vat = w)) (s.bank b).list with
  | none =>
    obtain ⟨e, he, hw⟩ := hmem
    rw [pick?_eq_none.mp hp e he] at hw
    cases hw
  | some q =>
    obtain ⟨e, rest⟩ := q
    obtain ⟨before, behind, hl, rfl, he, hb⟩ := pick?_eq_some.mp hp
    have hev : e.vat = w := by simpa using he
    have hek : e.kind = kind := by
      by_contra hne
      have := hlist e.kind
      rw [if_neg (Ne.symm hne), hl] at this
      simp [List.countP_append, hev] at this
    refine .modBank s b (fun v k => ?_) (fun v k => by simp [onlyAt, BankRecord.feeding]) fun p hp _ => ?_
    · rw [hl, dropOne_append (p := fun e : Transfer => decide (e.vat = w)) he hb]
      by_cases hv : v = w
      · subst hv
        simp [onlyAt, List.countP_append, List.countP_cons, hev, hek, Nat.add_assoc]
      · simp [List.countP_append, hev, hv, Ne.symm hv]
    · simp [onlyAt, Ne.symm (hp kind)]

/-- The cut lists changed. -/
theorem Reseats.cutLists (s : State) {urgent openList : List CutEntry}
    (h : ∀ v, ((urgent ++ openList).countP fun e => decide (e.vat = v)) + (if v = w then onlyAt o .cutList else 0) =
      ((s.urgent ++ s.openList).countP fun e => decide (e.vat = v)) + (if v = w then onlyAt o' .cutList else 0))
    (he : ∀ p, p ≠ .cutList → onlyAt o p = onlyAt o' p) :
    Reseats w o o' s { s with urgent := urgent, openList := openList } := by
  refine ⟨fun v p => ?_, fun _ _ => ⟨rfl, rfl, rfl⟩, fun _ => rfl, fun _ _ _ _ => .rfl, fun _ _ _ => ⟨rfl, .rfl⟩⟩
  cases p
  case cutList => exact h v
  all_goals
    rw [he _ (by simp)]
    rfl

theorem onlyAt_of_ne {p q : Place} (h : q ≠ p) : onlyAt none q = onlyAt (some p) q := by
  simp [onlyAt, Ne.symm h]

/-- One more entry stands in a list. -/
theorem countP_insert {α : Type} (p : α → Bool) {l l' before behind : List α} {x : α} (hl : l = before ++ behind)
    (hl' : l' = before ++ x :: behind) : l'.countP p = l.countP p + if p x then 1 else 0 := by
  subst hl hl'
  simp only [List.countP_append, List.countP_cons]
  omega

/-- One more entry, of vat `w`, stands in the cut lists. -/
theorem Reseats.insertCut (s : State) {urgent openList before behind : List CutEntry} {e : CutEntry} (he : e.vat = w)
    (hl : s.urgent ++ s.openList = before ++ behind) (hl' : urgent ++ openList = before ++ e :: behind) :
    Reseats w none (some .cutList) s { s with urgent := urgent, openList := openList } := by
  refine .cutLists s (fun v => ?_) fun p => onlyAt_of_ne
  rw [countP_insert _ hl hl', he]
  by_cases hv : v = w
  · subst hv
    simp [onlyAt]
  · simp [hv, Ne.symm hv]

theorem Reseats.joinCut (s : State) (w : Vat) : Reseats w none (some .cutList) s (s.joinCut w) := by
  unfold State.joinCut
  split
  · exact .insertCut s (e := s.cutEntry w) rfl rfl (by rw [List.append_assoc, List.singleton_append])
  · obtain ⟨before, behind, hl, hl', -⟩ := putBefore_eq (s.opensLater w) (s.cutEntry w) s.openList
    exact .insertCut s (e := s.cutEntry w) (before := s.urgent ++ before) (behind := behind) rfl
      (by rw [hl, List.append_assoc]) (by rw [hl', List.append_assoc])

theorem Reseats.returnCut (s : State) (w : Vat) : Reseats w none (some .cutList) s (s.returnCut w) := by
  unfold State.returnCut
  split
  · exact .insertCut s (e := s.cutEntry w) (before := []) rfl rfl rfl
  · exact .insertCut s (e := s.cutEntry w) rfl rfl rfl

/-- What is left when every entry of a vat that stands once in a list is dropped. -/
theorem countP_dropOne {l : List CutEntry} (hl : (l.countP fun e => decide (e.vat = w)) ≤ 1) (v : Vat) :
    ((dropOne (fun e => decide (e.vat = w)) l).countP fun e => decide (e.vat = v)) =
      if v = w then 0 else l.countP fun e => decide (e.vat = v) := by
  cases hp : pick? (fun e : CutEntry => decide (e.vat = w)) l with
  | none =>
    have hn := pick?_eq_none.mp hp
    rw [dropOne_of_none hn]
    split_ifs with hv
    · subst hv
      exact List.countP_eq_zero.mpr fun e he => by simpa using hn e he
    · rfl
  | some q =>
    obtain ⟨e, rest⟩ := q
    obtain ⟨before, behind, rfl, rfl, he, hb⟩ := pick?_eq_some.mp hp
    rw [dropOne_append (p := fun e : CutEntry => decide (e.vat = w)) he hb]
    have hev : e.vat = w := by simpa using he
    simp only [List.countP_append, List.countP_cons, hev] at hl ⊢
    by_cases hv : v = w
    · subst hv
      simp only [decide_true, if_true] at hl ⊢
      omega
    · simp [hv, Ne.symm hv]

/-- The vat's entry, if it has one, leaves the cut lists. -/
theorem Reseats.leaveCut (h : s.named w = onlyAt o) (ho : o = none ∨ o = some .cutList) :
    Reseats w o none s (s.leaveCut w) := by
  have hc : ((s.urgent ++ s.openList).countP fun e => decide (e.vat = w)) = onlyAt o .cutList := congrFun h .cutList
  have hle : onlyAt o .cutList ≤ 1 := by
    unfold onlyAt
    split <;> omega
  rw [List.countP_append] at hc
  refine .cutLists s (fun v => ?_) fun p hp => ?_
  · rw [List.countP_append, List.countP_append, countP_dropOne (by omega), countP_dropOne (by omega)]
    split_ifs with hv
    · subst hv
      rw [hc]
      simp
    · simp
  · rcases ho with rfl | rfl
    · rfl
    · exact (onlyAt_of_ne hp).symm

/-- A carriage takes a vat, holding none before. -/
theorem Reseats.takeCarriage (s : State) (c : Carriage) {f : CarriageRecord → CarriageRecord}
    (hv : (s.carriage c).vat = none) (hf : (f (s.carriage c)).vat = some w) :
    Reseats w none (some (.carriage c)) s (s.modCarriage c f) := by
  refine ⟨fun v p => ?_, fun _ _ => ⟨rfl, rfl, rfl⟩, fun _ => rfl, fun d v hne hd => ?_, fun _ _ _ => ⟨rfl, .rfl⟩⟩
  · cases p
    case carriage d =>
      by_cases hd : d = c
      · subst hd
        by_cases h : v = w
        · subst h
          simp [State.named, hv, hf, onlyAt]
        · simp [State.named, hv, hf, h, Ne.symm h]
      · simp [State.named, hd, onlyAt, Ne.symm hd]
    all_goals
      rw [← onlyAt_of_ne (by simp)]
      rfl
  · by_cases hdc : d = c
    · subst hdc
      simp [State.named, hv] at hd
    · rw [State.modCarriage_carriage_ne _ _ hdc]

/-- A carriage is released from its vat. -/
theorem Reseats.freeCarriage (s : State) (c : Carriage) {f : CarriageRecord → CarriageRecord}
    (hv : (s.carriage c).vat = some w) (hf : (f (s.carriage c)).vat = none) :
    Reseats w (some (.carriage c)) none s (s.modCarriage c f) := by
  refine ⟨fun v p => ?_, fun _ _ => ⟨rfl, rfl, rfl⟩, fun _ => rfl, fun d v hne hd => ?_, fun _ _ _ => ⟨rfl, .rfl⟩⟩
  · cases p
    case carriage d =>
      by_cases hd : d = c
      · subst hd
        by_cases h : v = w
        · subst h
          simp [State.named, hv, hf, onlyAt]
        · simp [State.named, hv, hf, h, Ne.symm h]
      · simp [State.named, hd, onlyAt, Ne.symm hd]
    all_goals
      rw [← onlyAt_of_ne (by simp)]
      rfl
  · by_cases hdc : d = c
    · subst hdc
      simp [State.named, hv, Ne.symm hne] at hd
    · rw [State.modCarriage_carriage_ne _ _ hdc]

/-- One more entry, of vat `w`, stands in the dump lists. -/
theorem Reseats.insertDump (s : State) {late routine before behind : List DumpEntry} {e : DumpEntry} (he : e.vat = w)
    (hl : s.lateList ++ s.routine = before ++ behind) (hl' : late ++ routine = before ++ e :: behind) :
    Reseats w none (some .dumpList) s { s with lateList := late, routine := routine } := by
  refine ⟨fun v p => ?_, fun _ _ => ⟨rfl, rfl, rfl⟩, fun _ => rfl, fun _ _ _ _ => .rfl, fun _ _ _ => ⟨rfl, .rfl⟩⟩
  cases p
  case dumpList =>
    simp only [State.named]
    rw [countP_insert _ hl hl', he]
    by_cases hv : v = w
    · subst hv
      simp [onlyAt]
    · simp [hv, Ne.symm hv]
  all_goals
    rw [← onlyAt_of_ne (by simp)]
    rfl

theorem Reseats.joinDump (s : State) (w : Vat) (kind : EntryKind) (early : Bool) :
    Reseats w none (some .dumpList) s (s.joinDump w kind early) := by
  unfold State.joinDump
  split
  · exact .insertDump s (e := s.dumpEntry w kind early) rfl rfl (by rw [List.append_assoc, List.singleton_append])
  · exact .insertDump s (e := s.dumpEntry w kind early) (before := s.lateList ++ s.routine) (behind := []) rfl
      (List.append_nil _).symm (List.append_assoc _ _ _).symm

theorem Reseats.returnDump (s : State) (w : Vat) (kind : EntryKind) (early : Bool) :
    Reseats w none (some .dumpList) s (s.returnDump w kind early) := by
  unfold State.returnDump
  split
  · exact .insertDump s (e := s.dumpEntry w kind early) (before := []) rfl rfl rfl
  · exact .insertDump s (e := s.dumpEntry w kind early) rfl rfl rfl

theorem Reseats.queueDump (s : State) (w : Vat) (kind : EntryKind) (early : Bool) :
    Reseats w none (some .dumpList) s (s.queueDump w kind early) :=
  (Reseats.modVat s w _ none).trans (.joinDump _ w kind early)

theorem Reseats.queueRoutine (s : State) (w : Vat) : Reseats w none (some .dumpList) s (s.queueRoutine w) :=
  (Reseats.modVat s w _ none).trans
    (.insertDump _ (e := State.dumpEntry _ w .normal false) (before := s.lateList ++ s.routine) (behind := []) rfl
      (List.append_nil _).symm (List.append_assoc _ _ _).symm)

end Sys2Proof.Machine
end

section
/-! PROOFS. What holds inside a step of the claims and of the records they rest on, and that the banks' work keeps it. -/

namespace Sys2Proof.Machine

variable {s t u : State} {v w : Vat} {o o' : Option Place} {b : Bank}

/-! ### The invariant inside a step -/

/-- A transfer stands only in OPENING and OPEN, and only a fill is marked for cancel. -/
def BankRecord.Fits (k : BankRecord) : Prop :=
  ∀ c, k.current = some c → (k.state = .opening ∨ k.state = .opened) ∧ (c.cancel = true → c.entry.kind = .fill)

theorem BankRecord.Fits.of_none {k : BankRecord} (h : k.current = none) : k.Fits := by
  intro c hc
  rw [h] at hc
  cases hc

/-- What the claims of the curd line rest on. -/
structure LotsFit (s : State) : Prop where
  list : LotListHolds s
  room : s.lots.length ≤ Config.lotRoom
  counter : 1 ≤ s.line.lotCounter ∧ s.line.lotCounter ≤ 4095
  free : s.line.state = .free → s.line.current = none

/-- The claims, and what the work of the blocks needs to keep them. -/
structure RoomReady (s : State) : Prop where
  claims : ClaimsHold s
  lots : LotsFit s
  carriages : ∀ c, (s.carriage c).state = .free → (s.carriage c).vat = none
  banks : ∀ b, (s.bank b).Fits

theorem RoomHolds.ready (h : RoomHolds s) : RoomReady s := by
  obtain ⟨hclaims, hlist, ⟨hroom, -⟩, hbanks, ⟨hcarriages, -⟩, -, hline, hcancels⟩ := h
  refine ⟨hclaims, ⟨hlist, hroom, hline.lotRange, hline.free⟩, fun c => (hcarriages c).free, fun b c hc => ⟨?_, ?_⟩⟩
  · exact (hbanks b).idle (by rw [hc]; rfl)
  · exact hcancels b c hc

theorem RoomReady.cancelsHold (h : RoomReady s) : CancelsHold s := fun b c hc => (h.banks b c hc).2

/-- The lots and the line as they were. -/
theorem LotsFit.congr (h : LotsFit s) (hline : t.line = s.line) (hlots : t.lots = s.lots) : LotsFit t := by
  obtain ⟨⟨h₁, h₂, h₃⟩, h₄, h₅, h₆⟩ := h
  have hfind : ∀ n, t.findLot n = s.findLot n := fun n => by rw [State.findLot, State.findLot, hlots]
  refine ⟨⟨?_, ?_, ?_⟩, ?_, ?_, ?_⟩
  · rwa [hlots]
  · rwa [hlots, hline]
  · rw [hline]
    simpa only [hfind] using h₃
  · rwa [hlots]
  · rwa [hline]
  · rwa [hline]

/-- Work of the banks, by its claims and its records. -/
theorem RoomReady.of_banks (h : RoomReady s) (hclaims : ClaimsHold t) (hline : t.line = s.line) (hlots : t.lots = s.lots)
    (hcar : t.carriages = s.carriages) (hbanks : ∀ b, (t.bank b).Fits) : RoomReady t := by
  refine ⟨hclaims, h.lots.congr hline hlots, fun c => ?_, hbanks⟩
  have : t.carriage c = s.carriage c := by simp only [State.carriage, hcar]
  rw [this]
  exact h.carriages c

/-- A state with the same records, lists and zones. -/
theorem RoomReady.congr (h : RoomReady s) (hv : t.vats = s.vats) (hb : t.banks = s.banks) (hu : t.urgent = s.urgent)
    (ho : t.openList = s.openList) (hc : t.carriages = s.carriages) (hll : t.lateList = s.lateList)
    (hr : t.routine = s.routine) (hlots : t.lots = s.lots) (hline : t.line = s.line)
    (hz : t.settings.zoneEnds = s.settings.zoneEnds) : RoomReady t := by
  have hk : Keeps s t := .of_records hv hb hu ho hc hll hr hlots (by rw [hline]) (by rw [hline]) hz
  refine h.of_banks (hk.claims h.claims) hline hlots hc fun b => ?_
  have : t.bank b = s.bank b := by simp only [State.bank, hb]
  rw [this]
  exact h.banks b

theorem RoomReady.raise (h : RoomReady s) (l : Link) (n : Notice) : RoomReady (s.raise l n) :=
  h.congr rfl rfl rfl rfl rfl rfl rfl rfl rfl rfl

theorem RoomReady.raiseBoth (h : RoomReady s) (l l' : Link) (n : Notice) : RoomReady (s.raiseBoth l l' n) :=
  h.congr rfl rfl rfl rfl rfl rfl rfl rfl rfl rfl

theorem RoomReady.modLink (h : RoomReady s) (l : Link) (f : LinkUnit → LinkUnit) : RoomReady (s.modLink l f) :=
  h.congr rfl rfl rfl rfl rfl rfl rfl rfl rfl rfl

/-- A vat record changed in fields that no seat reads. -/
theorem RoomReady.modVat (h : RoomReady s) (v : Vat) {f : VatRecord → VatRecord}
    (hs : (f (s.vat v)).stage = (s.vat v).stage) (hc : (f (s.vat v)).carriage = (s.vat v).carriage)
    (hl : (f (s.vat v)).lot = (s.vat v).lot) : RoomReady (s.modVat v f) :=
  h.of_banks ((Keeps.modVat s v hs hc hl).claims h.claims) rfl rfl rfl h.banks

/-- Every bank record fits after one was changed to one that fits. -/
theorem State.fits_modBank {m : State} (h : ∀ b, (m.bank b).Fits) {f : BankRecord → BankRecord} (hf : (f (m.bank b)).Fits)
    (b' : Bank) : ((m.modBank b f).bank b').Fits := by
  by_cases hb : b' = b
  · subst hb
    rwa [State.modBank_bank_same]
  · rw [State.modBank_bank_ne _ _ hb]
    exact h b'

theorem RoomReady.fits_modBank (h : RoomReady s) {f : BankRecord → BankRecord} (hf : (f (s.bank b)).Fits) :
    ∀ b', ((s.modBank b f).bank b').Fits := State.fits_modBank h.banks hf

/-- A bank record changed that names the same vats. -/
theorem RoomReady.modBank (h : RoomReady s) (b : Bank) {f : BankRecord → BankRecord}
    (hl : (f (s.bank b)).list = (s.bank b).list) (hc : (f (s.bank b)).feeding = (s.bank b).feeding)
    (hf : (f (s.bank b)).Fits) : RoomReady (s.modBank b f) :=
  h.of_banks ((Keeps.modBank s b hl hc).claims h.claims) rfl rfl rfl (h.fits_modBank hf)

/-- A bank without a transfer changed, but for its list. -/
theorem RoomReady.modIdle (h : RoomReady s) (hc : (s.bank b).current = none) {f : BankRecord → BankRecord}
    (hl : (f (s.bank b)).list = (s.bank b).list) (hc' : (f (s.bank b)).current = (s.bank b).current) :
    RoomReady (s.modBank b f) :=
  h.modBank b hl (by rw [BankRecord.feeding, BankRecord.feeding, hc']) (.of_none (hc'.trans hc))

/-- A bank has a transfer only in OPENING and OPEN. -/
theorem RoomReady.idle (h : RoomReady s) (h₁ : (s.bank b).state ≠ .opening) (h₂ : (s.bank b).state ≠ .opened) :
    (s.bank b).current = none := by
  cases hc : (s.bank b).current with
  | none => rfl
  | some c => rcases (h.banks b c hc).1 with e | e <;> contradiction

/-! ### Takes and closes -/

theorem RoomReady.parkLook (h : RoomReady s) (b : Bank) : RoomReady (s.parkLook b) := by
  unfold State.parkLook
  split <;> exact h.modBank b rfl rfl (h.banks b)

theorem RoomReady.takeRinse (h : RoomReady s) (hc : (s.bank b).current = none) : RoomReady (s.takeRinse b) :=
  h.modIdle hc rfl rfl

theorem RoomReady.beginClose (h : RoomReady s) (hc : (s.bank b).current = none) (cause : CloseCause) :
    RoomReady (s.beginClose b cause) := h.modIdle hc rfl rfl

theorem RoomReady.enterPriming (h : RoomReady s) (hc : (s.bank b).current = none) : RoomReady (s.enterPriming b) :=
  h.modIdle hc rfl rfl

theorem RoomReady.parkBank (h : RoomReady s) (hc : (s.bank b).current = none) : RoomReady (s.parkBank b) := by
  unfold State.parkBank
  exact h.modIdle hc rfl rfl

theorem Reseats.reportTake (s : State) (b : Bank) (e : Transfer) (o : Option Place) :
    Reseats e.vat o o s (s.reportTake b e) := by
  unfold State.reportTake
  split
  · exact (Keeps.refl s).reseats _ _
  · exact (Reseats.modVat s _ _ o).trans ((Keeps.raise _ _ _).reseats _ _)

/-- A take brings a listed vat's record to the stage of a vat that is fed. -/
theorem State.reportTake_vat {e : Transfer} (hs : (s.vat e.vat).stage ∈ e.kind.listed) :
    ((s.reportTake b e).vat e.vat) = { s.vat e.vat with stage := e.kind.fed } := by
  unfold State.reportTake
  cases hk : e.kind with
  | wash =>
    rw [hk] at hs
    rw [TransferKind.fed, ← List.mem_singleton.mp hs]
  | fill =>
    rw [hk] at hs
    simp only [TransferKind.listed, List.mem_cons, List.not_mem_nil, or_false] at hs
    rcases hs with e | e <;> simp [e, TransferKind.fed]
    rw [← e]

/-- A bank with no transfer takes an entry of its list. -/
theorem RoomReady.take (h : RoomReady s) {f : BankRecord → BankRecord} {before behind : List Transfer} {e : Transfer}
    {ph : Phase} (hl : (s.bank b).list = before ++ e :: behind) (hc : (s.bank b).current = none)
    (hl' : (f (s.bank b)).list = before ++ behind) (hc' : (f (s.bank b)).current = some ⟨e, ph, false⟩)
    (hst : (f (s.bank b)).state = .opening ∨ (f (s.bank b)).state = .opened) :
    RoomReady ((s.modBank b f).reportTake b e) := by
  have hnamed : s.named e.vat (.bankList b e.kind) ≠ 0 := by simp [State.named, hl]
  obtain ⟨hn, hb, hstage, hcar, hlot⟩ := (h.claims e.vat).seat_of_named hnamed
  have hr := (Reseats.takeEntry s b hl hc hl' (by rw [BankRecord.feeding, hc']; rfl)).trans (.reportTake _ b e _)
  have hwork := (BankWork.reportTake b (s.modBank b f) e).frame
  refine h.of_banks (hr.claims h.claims hn ?_) ?_ ?_ ?_ fun b' => ?_
  · have hv := State.reportTake_vat (s := s.modBank b f) (b := b) (e := e) hstage
    simp only [State.Seat, hv, hr.bankOf]
    exact ⟨hb, trivial, hcar, hlot⟩
  · rw [hwork]; rfl
  · rw [hwork]; rfl
  · rw [hwork]; rfl
  · rw [State.reportTake_bank]
    refine h.fits_modBank ?_ b'
    intro c hcc
    rw [hc'] at hcc
    cases hcc
    exact ⟨hst, fun hf => by cases hf⟩

theorem RoomReady.bankLook (h : RoomReady s) (b : Bank) : RoomReady (s.bankLook b) := by
  unfold State.bankLook
  split
  · rename_i hm
    split
    · exact h
    · rename_i e rest hp
      obtain ⟨before, behind, hl, rfl, -, -⟩ := pick?_eq_some.mp hp
      have hc : (s.bank b).current = none := by
        simp only [State.mayTake, Bool.and_eq_true, Bool.or_eq_true, decide_eq_true_eq, Option.isNone_iff_eq_none] at hm
        rcases hm.2 with e | e
        · exact h.idle (by rw [e]; decide) (by rw [e]; decide)
        · exact e.2
      split_ifs with hready hpath
      · exact h.take hl hc rfl rfl (.inl rfl)
      · refine h.take hl hc rfl rfl (.inr ?_)
        simp only [State.mayTake, Bool.and_eq_true, Bool.or_eq_true, decide_eq_true_eq] at hm
        rcases hm.2 with e | e
        · exact absurd e hready
        · exact e.1
      · exact h.beginClose hc _
  · exact h

theorem RoomReady.enterReady (h : RoomReady s) (hc : (s.bank b).current = none) : RoomReady (s.enterReady b) := by
  unfold State.enterReady
  refine RoomReady.parkLook ?_ b
  split
  · exact RoomReady.takeRinse (h.modIdle hc rfl rfl) (by rw [State.modBank_bank_same]; exact hc)
  · exact RoomReady.bankLook (h.modIdle hc rfl rfl) b

theorem RoomReady.afterTransfer (h : RoomReady s) (hc : (s.bank b).current = none) : RoomReady (s.afterTransfer b) := by
  unfold State.afterTransfer
  split
  · exact h.beginClose hc _
  · exact h.bankLook b

theorem RoomReady.actOnRinse (h : RoomReady s) (b : Bank) : RoomReady (s.actOnRinse b) := by
  unfold State.actOnRinse
  split
  · rename_i hst
    exact h.takeRinse (h.idle (by rw [hst]; decide) (by rw [hst]; decide))
  · rename_i hc
    exact h.beginClose hc _
  · exact h

theorem RoomReady.endDrain (h : RoomReady s) (hc : (s.bank b).current = none) : RoomReady (s.endDrain b) := by
  have ht : RoomReady (s.modBank b fun k => { k with drain := none }) := h.modIdle hc rfl rfl
  have hct : ((s.modBank b fun k => { k with drain := none }).bank b).current = none := by
    rw [State.modBank_bank_same]
    exact hc
  unfold State.endDrain
  dsimp only
  split
  · exact ht.enterReady hct
  · exact ht.takeRinse hct
  · exact ht.takeRinse hct
  · exact ht

theorem RoomReady.beginDrain (h : RoomReady s) (hc : (s.bank b).current = none) : RoomReady (s.beginDrain b) := by
  unfold State.beginDrain
  dsimp only
  split
  · exact RoomReady.endDrain (h.modIdle hc rfl rfl) (by rw [State.modBank_bank_same]; exact hc)
  · exact h.modIdle hc rfl rfl

/-- An entry has joined a bank's list, and the bank wakes or looks. -/
theorem RoomReady.joinTransfer {e : Transfer} (h : RoomReady (s.modBank b fun k => { k with list := k.list ++ [e] })) :
    RoomReady (s.joinTransfer b e) := by
  unfold State.joinTransfer
  dsimp only
  split
  · rename_i hp
    exact h.enterPriming (h.idle (by rw [hp]; decide) (by rw [hp]; decide))
  · exact (h.bankLook b).parkLook b

theorem RoomReady.parkLooks (bs : List Bank) : ∀ {s : State}, RoomReady s → RoomReady (s.parkLooks bs) := by
  induction bs with
  | nil => exact id
  | cons b bs ih => exact fun h => ih (h.parkLook b)

theorem RoomReady.bankLooks (h : RoomReady s) (becomes : Transfer → Bool) (bs : List Bank) :
    RoomReady (s.bankLooks becomes bs) := by
  refine RoomReady.parkLooks bs (State.forEachFreely_keeps RoomReady s _ _ h ?_ fun b _ t ht => ?_)
  · exact fun _ => h.congr rfl rfl rfl rfl rfl rfl rfl rfl rfl rfl
  · split
    · rename_i hw
      have hp : (t.bank b).state = .parked := by
        simp only [State.wakes, Bool.and_eq_true, decide_eq_true_eq] at hw
        exact hw.1
      exact ht.enterPriming (ht.idle (by rw [hp]; decide) (by rw [hp]; decide))
    · exact ht.bankLook b

/-! ### Ends of transfers -/

theorem State.endFill_modBank (s : State) (b : Bank) (v : Vat) (f : BankRecord → BankRecord) :
    (s.endFill v).modBank b f = (s.modBank b f).endFill v := by
  unfold State.endFill
  rw [State.modBank_vat]
  split <;> rfl

theorem Reseats.endFill (s : State) (w : Vat) (o : Option Place) : Reseats w o o s (s.endFill w) := by
  unfold State.endFill
  split <;> exact .modVat s w _ o

/-- A fill that ends leaves its vat without a seat. -/
theorem State.endFill_seat (hc : (s.vat v).carriage = none) (hl : (s.vat v).lot = none) : (s.endFill v).Seat v none := by
  unfold State.endFill
  split
  · simp [State.Seat, hc, hl]
  · simp [State.Seat, State.clearVat, VatRecord.cleared]

/-- A bank's transfer, which names a vat that is fed. -/
theorem RoomReady.current_seat (h : RoomReady s) {c : Current} (hc : (s.bank b).current = some c) :
    s.named c.entry.vat = onlyAt (some (.bankTransfer b c.entry.kind)) ∧
      s.Seat c.entry.vat (some (.bankTransfer b c.entry.kind)) :=
  (h.claims c.entry.vat).seat_of_named (by simp [State.named, hc])

/-- A bank's fill ends, its vat with what it holds. -/
theorem RoomReady.dropFill (h : RoomReady s) {f : BankRecord → BankRecord} {c : Current}
    (hc : (s.bank b).current = some c) (hl' : (f (s.bank b)).list = (s.bank b).list)
    (hc' : (f (s.bank b)).current = none) : RoomReady ((s.modBank b f).endFill c.entry.vat) := by
  obtain ⟨hn, -, -, hcar, hlot⟩ := h.current_seat hc
  have hr := (Reseats.endTransfer s b hc hl' hc').trans (.endFill _ c.entry.vat none)
  have hwork := (BankWork.endFill b (s.modBank b f) c.entry.vat).frame
  refine h.of_banks (hr.claims h.claims hn (State.endFill_seat hcar hlot)) ?_ ?_ ?_ fun b' => ?_
  · rw [hwork]; rfl
  · rw [hwork]; rfl
  · rw [hwork]; rfl
  · rw [← State.endFill_modBank]
    have he : (s.endFill c.entry.vat).bank = s.bank := by
      unfold State.endFill
      split <;> rfl
    by_cases hb : b' = b
    · subst hb
      rw [State.modBank_bank_same, he]
      exact .of_none hc'
    · rw [State.modBank_bank_ne _ _ hb, he]
      exact h.banks b'

/-- A bank's transfer goes back to the head of its list. -/
theorem RoomReady.suspend (h : RoomReady s) {f : BankRecord → BankRecord} {c : Current} {e : Transfer}
    (hc : (s.bank b).current = some c) (hv : e.vat = c.entry.vat) (hk : e.kind = c.entry.kind)
    (hl' : (f (s.bank b)).list = e :: (s.bank b).list) (hc' : (f (s.bank b)).current = none) :
    RoomReady (s.modBank b f) := by
  obtain ⟨hn, hb, hst, hcar, hlot⟩ := h.current_seat hc
  have hr := Reseats.suspend s b hc hv hk hl' hc'
  refine h.of_banks (hr.claims h.claims hn ⟨hb, ?_, hcar, hlot⟩) rfl rfl rfl (h.fits_modBank (.of_none hc'))
  rw [State.modBank_vat, hst]
  cases c.entry.kind <;> simp [TransferKind.fed, TransferKind.listed]

theorem BankRecord.suspended_current (k : BankRecord) : k.suspended.current = none := by
  unfold BankRecord.suspended
  split
  · rfl
  · assumption

theorem RoomReady.suspended (h : RoomReady s) (b : Bank) : RoomReady (s.modBank b BankRecord.suspended) := by
  cases hc : (s.bank b).current with
  | none => exact h.modIdle hc (by simp [BankRecord.suspended, hc]) (by simp [BankRecord.suspended, hc])
  | some c =>
    exact h.suspend (e := { c.entry with resumed := true }) hc rfl rfl (by simp [BankRecord.suspended, hc])
      (BankRecord.suspended_current _)

theorem RoomReady.faultBank (h : RoomReady s) (b : Bank) (cause : BankFaultCause) : RoomReady (s.faultBank b cause) := by
  unfold State.faultBank State.loseTransfer
  refine RoomReady.raiseBoth ?_ _ _ _
  cases hc : (s.bank b).current with
  | none => exact h.modBank b rfl (by simp [BankRecord.faulted, BankRecord.feeding, hc]) (.of_none rfl)
  | some c =>
    dsimp only
    split
    · rw [State.endFill_modBank]
      exact h.dropFill hc rfl rfl
    · exact (h.suspended b).modIdle (by rw [State.modBank_bank_same]; exact BankRecord.suspended_current _) rfl
        (by rw [State.modBank_bank_same, BankRecord.suspended_current]; rfl)

theorem RoomReady.expirePath (h : RoomReady s) (b : Bank) : RoomReady (s.expirePath b) := by
  have hr : RoomReady (s.raiseSuspended b) := by
    unfold State.raiseSuspended
    split
    · split
      · exact h.raise _ _
      · exact h
    · exact h
  unfold State.expirePath
  split
  · refine (hr.suspended b).beginClose ?_ _
    rw [State.modBank_bank_same]
    exact BankRecord.suspended_current _
  · rename_i hst
    exact h.modIdle (h.idle (by rw [hst]; decide) (by rw [hst]; decide)) rfl rfl
  · exact h

/-! ### The events of a bank -/

theorem RoomReady.openPath (h : RoomReady s) (b : Bank) : RoomReady (s.openPath b) := by
  unfold State.openPath
  cases hc : (s.bank b).current with
  | none => exact h.modIdle hc rfl rfl
  | some c =>
    dsimp only
    split
    · refine (h.dropFill hc rfl rfl).afterTransfer ?_
      rw [← State.endFill_modBank, State.modBank_bank_same]
    · refine h.modBank b rfl (by rw [BankRecord.feeding, BankRecord.feeding, hc]; rfl) fun c' hc' => ?_
      cases hc'
      exact ⟨.inr rfl, (h.banks b c hc).2⟩

theorem RoomReady.applyProvedRise (h : RoomReady s) (b : Bank) : RoomReady (s.applyProvedRise b) := by
  unfold State.applyProvedRise
  split
  · exact h.openPath b
  · split
    · exact h.faultBank b _
    · exact h
  · split
    · exact h.faultBank b _
    · exact h
  · exact h.faultBank b _
  · exact h.faultBank b _
  · exact h.faultBank b _
  · exact h.faultBank b _
  · exact h
  · exact h

theorem RoomReady.applyProvedFall (h : RoomReady s) (b : Bank) : RoomReady (s.applyProvedFall b) := by
  unfold State.applyProvedFall
  split
  · exact h.faultBank b _
  · rename_i hst
    split
    · exact h.beginDrain (h.idle (by rw [hst]; decide) (by rw [hst]; decide))
    · exact h
  · split
    · exact h.modBank b rfl rfl (h.banks b)
    · exact h
  · exact h

theorem Reseats.reportComplete (s : State) (e : Transfer) (o : Option Place) : Reseats e.vat o o s (s.reportComplete e) := by
  unfold State.reportComplete
  split <;> exact (Reseats.modVat s _ _ o).trans ((Keeps.raise _ _ _).reseats _ _)

theorem State.reportComplete_seat {e : Transfer} (hc : (s.vat e.vat).carriage = none) (hl : (s.vat e.vat).lot = none) :
    (s.reportComplete e).Seat e.vat none := by
  unfold State.reportComplete
  split
  · simp [State.Seat, hc, hl]
  · simp [State.Seat, State.clearVat, VatRecord.cleared]

theorem State.reportComplete_bank (s : State) (e : Transfer) : (s.reportComplete e).bank = s.bank := by
  unfold State.reportComplete
  split <;> rfl

/-- A bank's transfer ends at its target. -/
theorem RoomReady.completeTransfer (h : RoomReady s) {f : BankRecord → BankRecord} {c : Current} {e : Transfer}
    (hc : (s.bank b).current = some c) (hv : e.vat = c.entry.vat) (hl' : (f (s.bank b)).list = (s.bank b).list)
    (hc' : (f (s.bank b)).current = none) : RoomReady ((s.modBank b f).reportComplete e) := by
  obtain ⟨hn, -, -, hcar, hlot⟩ := h.current_seat hc
  have hr := Reseats.endTransfer s b hc hl' hc'
  rw [← hv] at hr hn hcar hlot
  have hr' := hr.trans (.reportComplete _ e none)
  have hwork := (BankWork.reportComplete b (s.modBank b f) e).frame
  refine h.of_banks (hr'.claims h.claims hn (State.reportComplete_seat hcar hlot)) ?_ ?_ ?_ fun b' => ?_
  · rw [hwork]; rfl
  · rw [hwork]; rfl
  · rw [hwork]; rfl
  · rw [State.reportComplete_bank]
    exact h.fits_modBank (.of_none hc') b'

theorem RoomReady.addFilled (h : RoomReady s) (c : Current) (litres : Nat) : RoomReady (s.addFilled c litres) := by
  unfold State.addFilled
  split
  · exact h.modVat _ rfl rfl rfl
  · exact h

theorem State.addFilled_bank (s : State) (c : Current) (litres : Nat) : (s.addFilled c litres).bank = s.bank := by
  unfold State.addFilled
  split <;> rfl

theorem RoomReady.meter (h : RoomReady s) {c : Current} (hc : (s.bank b).current = some c) : RoomReady (s.meter b c) := by
  have ht := h.addFilled c s.settings.litresPerPulse
  have hct : ((s.addFilled c s.settings.litresPerPulse).bank b).current = some c := by rwa [State.addFilled_bank]
  unfold State.meter
  dsimp only
  split
  · refine RoomReady.afterTransfer (ht.completeTransfer hct rfl rfl rfl) ?_
    rw [State.reportComplete_bank, State.modBank_bank_same]
  · refine ht.modBank b rfl (by rw [BankRecord.feeding, BankRecord.feeding, hct]; rfl) fun c' hc' => ?_
    cases hc'
    exact ht.banks b c hct

theorem RoomReady.applyFlow (h : RoomReady s) (b : Bank) : RoomReady (s.applyFlow b) := by
  unfold State.applyFlow
  split
  · exact h
  · split
    · rename_i c hc
      split
      · exact h.meter hc
      · exact h.faultBank b _
    · exact h.faultBank b _

/-- A bank's transfer goes on in another phase. -/
theorem RoomReady.rephase (h : RoomReady s) {f : BankRecord → BankRecord} {c : Current} {ph : Phase}
    (hc : (s.bank b).current = some c) (hl' : (f (s.bank b)).list = (s.bank b).list)
    (hc' : (f (s.bank b)).current = some { c with phase := ph }) (hst : (f (s.bank b)).state = (s.bank b).state) :
    RoomReady (s.modBank b f) := by
  refine h.modBank b hl' (by rw [BankRecord.feeding, BankRecord.feeding, hc, hc']; rfl) fun c' hcc => ?_
  rw [hc'] at hcc
  cases hcc
  rw [hst]
  exact h.banks b c hc

theorem RoomReady.applyNoFlow (h : RoomReady s) (b : Bank) : RoomReady (s.applyNoFlow b) := by
  unfold State.applyNoFlow
  cases hc : (s.bank b).current with
  | none => exact h
  | some c =>
    dsimp only
    split
    · exact (h.rephase hc rfl rfl rfl).raise _ _
    · exact h.rephase hc rfl rfl rfl

theorem RoomReady.applyFlushExpiry (h : RoomReady s) (hc : (s.bank b).current = none) :
    RoomReady (s.applyFlushExpiry b) := by
  unfold State.applyFlushExpiry
  dsimp only
  split
  · exact h.modBank b rfl rfl (h.banks b)
  · refine RoomReady.enterReady (h.modIdle hc rfl rfl) ?_
    rw [State.modBank_bank_same]
    exact hc

theorem RoomReady.applyRinseMatch (h : RoomReady s) (b : Bank) : RoomReady (s.applyRinseMatch b) := by
  unfold State.applyRinseMatch
  dsimp only
  split
  · exact (h.modBank b rfl rfl (h.banks b)).raise _ _
  · exact (h.modBank b rfl rfl (h.banks b)).actOnRinse b

/-! ### Several banks -/

theorem RoomReady.pathLimitSet (h : RoomReady s) : RoomReady s.pathLimitSet :=
  State.forEachFreely_keeps RoomReady s _ _ h (fun _ => h.congr rfl rfl rfl rfl rfl rfl rfl rfl rfl rfl)
    fun b _ _ ht => ht.expirePath b

theorem RoomReady.rinseIntervalSet (h : RoomReady s) : RoomReady s.rinseIntervalSet := by
  have hbank : ∀ b, s.rinseIntervalSet.bank b = { s.bank b with rinseCount := 0 } := fun b => by
    simp [State.rinseIntervalSet, State.mapBanks, State.bank]
  have hk : Keeps s s.rinseIntervalSet := by
    refine ⟨fun v => ?_, fun _ => ⟨rfl, rfl, rfl⟩, fun _ => rfl, fun _ _ _ => .rfl, fun _ _ => ⟨rfl, .rfl⟩⟩
    funext p
    cases p
    case bankList => simp only [State.named, hbank]
    case bankTransfer => simp only [State.named, hbank]
    all_goals rfl
  refine h.of_banks (hk.claims h.claims) rfl rfl rfl fun b => ?_
  rw [hbank]
  exact h.banks b

/-- Banks that park, none of which has a transfer. -/
theorem RoomReady.parkBanks (bs : List Bank) : ∀ {s : State}, RoomReady s → (∀ b ∈ bs, (s.bank b).current = none) →
    RoomReady (bs.foldl State.parkBank s) := by
  induction bs with
  | nil => exact fun h _ => h
  | cons b bs ih =>
    intro s h hc
    refine ih (h.parkBank (hc b (by simp))) fun b' hb' => ?_
    unfold State.parkBank
    by_cases hb : b' = b
    · subst hb
      rw [State.modBank_bank_same]
      exact hc b' (by simp)
    · rw [State.modBank_bank_ne _ _ hb]
      exact hc b' (by simp [hb'])

/-- A park timer that a look has left running is a READY bank's. -/
theorem State.parkLook_ready (h : ((s.parkLook b).bank b).park.isSome) : ((s.parkLook b).bank b).state = .ready := by
  unfold State.parkLook at h ⊢
  split
  · rename_i hc
    simp only [Bool.and_eq_true, decide_eq_true_eq] at hc
    rw [State.modBank_bank_same]
    exact hc.1.1
  · rename_i hc
    rw [if_neg hc, State.modBank_bank_same] at h
    cases h

theorem allBanks_nodup : allBanks.Nodup := by decide

theorem mem_allBanks (b : Bank) : b ∈ allBanks := by revert b; decide

theorem RoomReady.parkDelaySet (h : RoomReady s) : RoomReady s.parkDelaySet := by
  have ht := RoomReady.parkLooks allBanks h
  refine RoomReady.parkBanks _ ht fun b hb => ?_
  have hdue := (List.mem_filter.mp hb).2
  have hbank := (s.parkLooks_bank allBanks_nodup b).1 (mem_allBanks b)
  have hready : ((s.parkLooks allBanks).bank b).state = .ready := by
    rw [hbank]
    refine State.parkLook_ready ?_
    unfold State.parkDue at hdue
    rw [hbank] at hdue
    split at hdue
    · rename_i hp
      rw [hp]; rfl
    · cases hdue
  exact ht.idle (by rw [hready]; decide) (by rw [hready]; decide)

end Sys2Proof.Machine
end

section
/-! PROOFS. The work of the two arbiters, and the vat table's events, keep the claims. -/

namespace Sys2Proof.Machine

variable {s t u : State} {v w : Vat} {o o' : Option Place}

/-! ### The carriage arbiter -/

/-- A vat without a seat, by its record. -/
theorem State.seat_none {r : VatRecord} (hr : t.vat v = r)
    (hs : r.stage ∈ [Stage.vacant, .charged, .setting, .working, .overset]) (hc : r.carriage = none) (hl : r.lot = none) :
    t.Seat v none := by
  simp only [State.Seat, hr]
  exact ⟨hs, hc, hl⟩

/-- Work of the carriage arbiter, by its claims and its records. -/
theorem RoomReady.of_cut (h : RoomReady s) (hclaims : ClaimsHold t) (hline : t.line = s.line) (hlots : t.lots = s.lots)
    (hbanks : t.banks = s.banks) (hcar : ∀ c, (t.carriage c).state = .free → (t.carriage c).vat = none) :
    RoomReady t := by
  refine ⟨hclaims, h.lots.congr hline hlots, hcar, fun b => ?_⟩
  have : t.bank b = s.bank b := by simp only [State.bank, hbanks]
  rw [this]
  exact h.banks b

/-- Every FREE carriage holds no vat, after one was changed. -/
theorem RoomReady.free_modCarriage (h : RoomReady s) {c : Carriage} {f : CarriageRecord → CarriageRecord}
    (hf : (f (s.carriage c)).state = .free → (f (s.carriage c)).vat = none) (d : Carriage) :
    ((s.modCarriage c f).carriage d).state = .free → ((s.modCarriage c f).carriage d).vat = none := by
  by_cases hd : d = c
  · subst hd
    rwa [State.modCarriage_carriage_same]
  · rw [State.modCarriage_carriage_ne _ _ hd]
    exact h.carriages d

/-- A carriage record changed that holds the same vat and is ORDERED as before. -/
theorem RoomReady.modCarriage (h : RoomReady s) (c : Carriage) {f : CarriageRecord → CarriageRecord}
    (hv : (f (s.carriage c)).vat = (s.carriage c).vat)
    (ho : (s.carriage c).vat.isSome → ((f (s.carriage c)).state = .ordered ↔ (s.carriage c).state = .ordered))
    (hf : (f (s.carriage c)).state = .free → (s.carriage c).vat = none) : RoomReady (s.modCarriage c f) :=
  h.of_cut ((Keeps.modCarriage s c hv ho).claims h.claims) rfl rfl rfl (h.free_modCarriage fun e => hv.trans (hf e))

/-- The cut lists with the same entries, in another order. -/
theorem RoomReady.cutLists (h : RoomReady s) {urgent openList : List CutEntry}
    (hp : (urgent ++ openList).Perm (s.urgent ++ s.openList)) :
    RoomReady { s with urgent := urgent, openList := openList } :=
  h.of_cut ((Keeps.cutLists s hp).claims h.claims) rfl rfl rfl h.carriages

/-- An entry of vat `w` leaves the cut lists. -/
theorem Reseats.removeCut (s : State) {urgent openList before behind : List CutEntry} {e : CutEntry} (he : e.vat = w)
    (hl : s.urgent ++ s.openList = before ++ e :: behind) (hl' : urgent ++ openList = before ++ behind) :
    Reseats w (some .cutList) none s { s with urgent := urgent, openList := openList } := by
  refine .cutLists s (fun v => ?_) fun p hp => (onlyAt_of_ne hp).symm
  rw [countP_insert _ hl' hl, he]
  by_cases hv : v = w
  · subst hv
    simp [onlyAt]
  · simp [hv, Ne.symm hv]

/-- A carriage changes and holds its vat on. -/
theorem Reseats.holdCarriage (s : State) (c : Carriage) {f : CarriageRecord → CarriageRecord}
    (hv : (s.carriage c).vat = some w) (hf : (f (s.carriage c)).vat = some w) (o : Option Place) :
    Reseats w o o s (s.modCarriage c f) := by
  refine ⟨fun v p => ?_, fun _ _ => ⟨rfl, rfl, rfl⟩, fun _ => rfl, fun d v hne hd => ?_, fun _ _ _ => ⟨rfl, .rfl⟩⟩
  · cases p
    case carriage d =>
      by_cases hd : d = c
      · subst hd
        simp only [State.named, State.modCarriage_carriage_same, hv, hf]
      · simp only [State.named, State.modCarriage_carriage_ne _ _ hd]
    all_goals rfl
  · by_cases hdc : d = c
    · subst hdc
      simp [State.named, hv, Ne.symm hne] at hd
    · rw [State.modCarriage_carriage_ne _ _ hdc]

theorem Reseats.withoutChosen {x : CutChoice} (hx : s.chooseCut = some x) :
    Reseats x.entry.vat (some .cutList) none s (s.withoutChosen x) := by
  unfold State.withoutChosen
  rcases State.chooseCut_eq_some hx with ⟨hl, hp⟩ | ⟨hl, hp⟩ <;>
    obtain ⟨before, behind, hlist, hrest, -, -⟩ := pick?_eq_some.mp hp <;> rw [hl]
  · exact .removeCut s (before := before) (behind := behind ++ s.openList) rfl
      (by rw [hlist, List.append_assoc, List.cons_append]) (by rw [hrest, List.append_assoc])
  · exact .removeCut s (before := s.urgent ++ before) (behind := behind) rfl (by rw [hlist, List.append_assoc])
      (by rw [hrest, List.append_assoc])

theorem State.withoutChosen_carriages (s : State) (x : CutChoice) : (s.withoutChosen x).carriages = s.carriages := by
  unfold State.withoutChosen
  split <;> rfl

theorem State.applyCutGrant_vat_same (x : CutChoice) (c : Carriage) :
    (s.applyCutGrant x c).vat x.entry.vat = { s.vat x.entry.vat with carriage := some c } := by
  have hsame : ∀ v, ({ s.withoutChosen x with
      tagCounter := nextTag s.tagToIssue, lateTags := s.lateTags.filter (fun n => decide (n ≠ s.tagToIssue)),
      lastGranted := some c } : State).vat v = s.vat v := State.withoutChosen_vat s x
  unfold State.applyCutGrant
  rw [State.raise_vat, State.modVat_vat_same, State.modCarriage_vat, hsame]

theorem RoomReady.applyCutGrant (h : RoomReady s) {x : CutChoice} {c : Carriage} (hx : s.chooseCut = some x)
    (hc : s.carriageFor x.entry = some c) : RoomReady (s.applyCutGrant x c) := by
  obtain ⟨hfree, -⟩ := State.cutEligible_iff.mp (State.carriageFor_eligible hc)
  have hnamed : s.named x.entry.vat .cutList ≠ 0 := by
    have hmem := (State.chooseCut_mem hx).1
    exact (List.countP_pos_iff.mpr ⟨_, hmem, by simp⟩).ne'
  obtain ⟨hn, hstage, -, hlot⟩ := (h.claims x.entry.vat).seat_of_named hnamed
  have hkeep : Keeps (s.withoutChosen x) { s.withoutChosen x with
      tagCounter := nextTag s.tagToIssue, lateTags := s.lateTags.filter (fun n => decide (n ≠ s.tagToIssue)),
      lastGranted := some c } :=
    .of_records rfl rfl rfl rfl rfl rfl rfl rfl rfl .rfl rfl
  have hcar : ∀ d, (s.withoutChosen x).carriage d = s.carriage d := fun d => by
    simp only [State.carriage, State.withoutChosen_carriages]
  have hempty : ((s.withoutChosen x).carriage c).vat = none := (congrArg _ (hcar c)).trans (h.carriages c hfree)
  have hr : Reseats x.entry.vat (some .cutList) (some (.carriage c)) s (s.applyCutGrant x c) :=
    ((((Reseats.withoutChosen hx).trans (hkeep.reseats _ _)).trans (.takeCarriage _ c hempty rfl)).trans
      (.modVat _ _ _ _)).trans ((Keeps.raise _ _ _).reseats _ _)
  have hwork := (CutWork.applyCutGrant s x c).frame
  have hvat := State.applyCutGrant_vat_same (s := s) x c
  refine h.of_cut (hr.claims h.claims hn ?_) ?_ ?_ ?_ fun d => ?_
  · refine ⟨.inl ⟨(congrArg _ hvat).trans hstage, ?_⟩, congrArg _ hvat, (congrArg _ hvat).trans hlot⟩
    rw [State.applyCutGrant_carriage_same]
    rfl
  · rw [hwork]
  · rw [hwork]
  · rw [hwork]
  · by_cases hd : d = c
    · subst hd
      rw [State.applyCutGrant_carriage_same]
      intro e
      cases e
    · rw [State.applyCutGrant_carriage_ne _ hd]
      exact h.carriages d

theorem RoomReady.cutLook (h : RoomReady s) : RoomReady s.cutLook :=
  State.cutLook_keeps h fun _ _ _ ht hx hc => ht.applyCutGrant hx hc

theorem RoomReady.moveUrgent (h : RoomReady s) (hm : s.moveUrgent v = some t) : RoomReady t := by
  unfold State.moveUrgent at hm
  split at hm
  · rename_i e rest hp
    cases hm
    obtain ⟨before, behind, hl, rfl, -, -⟩ := pick?_eq_some.mp hp
    refine h.cutLists ?_
    rw [hl, List.append_assoc, List.singleton_append]
    exact (List.perm_middle.symm).append_left _
  · cases hm

theorem RoomReady.moveAllUrgent (h : RoomReady s) : RoomReady s.moveAllUrgent := by
  refine h.cutLists ?_
  rw [List.append_assoc]
  exact (List.filter_append_perm _ _).append_left _

theorem State.joinCut_eq (s : State) (v : Vat) :
    ∃ urgent openList, s.joinCut v = { s with urgent := urgent, openList := openList } := by
  unfold State.joinCut
  split <;> exact ⟨_, _, rfl⟩

theorem State.returnCut_eq (s : State) (v : Vat) :
    ∃ urgent openList, s.returnCut v = { s with urgent := urgent, openList := openList } := by
  unfold State.returnCut
  split <;> exact ⟨_, _, rfl⟩

/-- A vat in a stage without a seat leaves it: nothing names it, and its carriage and lot fields are absent. -/
theorem RoomReady.unseated (h : RoomReady s)
    (hv : (s.vat v).stage ∈ [Stage.vacant, .charged, .setting, .working, .overset]) :
    s.named v = onlyAt none ∧ (s.vat v).carriage = none ∧ (s.vat v).lot = none := by
  obtain ⟨hn, -, hc, hl⟩ := (h.claims v).unseated hv
  exact ⟨hn, hc, hl⟩

/-- A vat without a seat enters the cut window. -/
theorem RoomReady.enterCutWindow (h : RoomReady s) (hv : (s.vat v).stage = .setting ∨ (s.vat v).stage = .overset) :
    RoomReady (s.enterCutWindow v) := by
  obtain ⟨hn, hcar, hlot⟩ := h.unseated (v := v) (by rcases hv with e | e <;> simp [e])
  unfold State.enterCutWindow
  have hr := (Reseats.modVat s v (fun r => { r with stage := .cutWindow, stepPending := .nothing }) none).trans
    (.joinCut _ v)
  have hvat := State.modVat_vat_same s v fun r => { r with stage := .cutWindow, stepPending := .nothing }
  obtain ⟨urgent, openList, e⟩ := State.joinCut_eq
    (s.modVat v fun r => { r with stage := .cutWindow, stepPending := .nothing }) v
  rw [e] at hr ⊢
  refine h.of_cut (hr.claims h.claims hn ?_) rfl rfl rfl h.carriages
  exact ⟨congrArg _ hvat, (congrArg _ hvat).trans hcar, (congrArg _ hvat).trans hlot⟩

/-- The vat of an order's carriage. -/
theorem RoomReady.ordered_seat (h : RoomReady s) {c : Carriage} (hv : (s.carriage c).vat = some v)
    (hst : (s.carriage c).state = .ordered) : s.named v = onlyAt (some (.carriage c)) ∧ (s.vat v).stage = .cutWindow ∧
      (s.vat v).carriage = some c ∧ (s.vat v).lot = none := by
  obtain ⟨hn, hs, hc, hl⟩ := (h.claims v).seat_of_named (p := .carriage c) (by simp [State.named, hv])
  rcases hs with ⟨e, -⟩ | ⟨-, hne⟩
  · exact ⟨hn, e, hc, hl⟩
  · exact absurd hst hne

theorem RoomReady.withdrawCut (h : RoomReady s) {c : Carriage} (hv : (s.carriage c).vat = some v)
    (hst : (s.carriage c).state = .ordered) (cause : WithdrawCause) (faulted : Bool) :
    RoomReady (s.withdrawCut c v cause faulted) := by
  obtain ⟨hn, hstage, -, hlot⟩ := h.ordered_seat hv hst
  have hfree := (Reseats.freeCarriage s c (f := fun k => k.withdrawn s.clock faulted) hv
    (CarriageRecord.withdrawn_vat _ _ _)).trans (.modVat _ v (fun r => { r with carriage := none }) none)
  have hcars : ∀ d, ((s.modCarriage c fun k => k.withdrawn s.clock faulted).carriage d).state = .free →
      ((s.modCarriage c fun k => k.withdrawn s.clock faulted).carriage d).vat = none :=
    h.free_modCarriage fun _ => CarriageRecord.withdrawn_vat _ _ _
  have hvat := State.modVat_vat_same (s.modCarriage c fun k => k.withdrawn s.clock faulted) v fun r =>
    { r with carriage := none }
  unfold State.withdrawCut
  refine RoomReady.raise ?_ _ _
  dsimp only
  split
  · have hr := (hfree.trans (.modVat _ v (fun r => { r with stage := .overset, stepPending := .nothing }) none))
    have hk : ∀ (m : State) (tags : List Nat), Keeps m { m with lateTags := tags } := fun m tags =>
      .of_records rfl rfl rfl rfl rfl rfl rfl rfl rfl .rfl rfl
    refine h.of_cut ((hr.trans ((hk _ _).reseats v none)).claims h.claims hn ?_) rfl rfl rfl hcars
    have hvat' := State.modVat_vat_same ((s.modCarriage c fun k => k.withdrawn s.clock faulted).modVat v fun r =>
      { r with carriage := none }) v fun r => { r with stage := .overset, stepPending := .nothing }
    exact State.seat_none hvat' (by simp) (congrArg VatRecord.carriage hvat) ((congrArg VatRecord.lot hvat).trans hlot)
  · have hr := hfree.trans (.returnCut _ v)
    obtain ⟨urgent, openList, e⟩ := State.returnCut_eq
      ((s.modCarriage c fun k => k.withdrawn s.clock faulted).modVat v fun r => { r with carriage := none }) v
    rw [e] at hr ⊢
    refine h.of_cut (hr.claims h.claims hn ?_) rfl rfl rfl hcars
    exact ⟨(congrArg _ hvat).trans hstage, congrArg _ hvat, (congrArg _ hvat).trans hlot⟩

theorem RoomReady.withdrawOrder (h : RoomReady s) (c : Carriage) (cause : WithdrawCause) :
    RoomReady (s.withdrawOrder c cause) := by
  unfold State.withdrawOrder
  split
  · rename_i hst hv
    exact h.withdrawCut hv hst _ _
  · exact h

theorem RoomReady.withdrawForAbsence (h : RoomReady s) : RoomReady s.withdrawForAbsence := by
  unfold State.withdrawForAbsence
  split <;> exact (h.withdrawOrder _ _).withdrawOrder _ _

/-! ### The events of the carriages and of the cut window -/

theorem RoomReady.applyCutOpen (h : RoomReady s) (hv : (s.vat v).stage = .setting) : RoomReady (s.applyCutOpen v) := by
  unfold State.applyCutOpen
  split
  · exact (h.modVat v rfl rfl rfl).raise _ _
  · exact (h.enterCutWindow (.inl hv)).cutLook

theorem RoomReady.applyUrgency (h : RoomReady s) (v : Vat) : RoomReady (s.applyUrgency v) := by
  unfold State.applyUrgency
  split
  · rename_i hm
    exact (h.moveUrgent hm).cutLook
  · exact h

/-- A vat that no carriage holds, SETTING or in the cut window, is named by the cut lists or nowhere. -/
theorem RoomReady.coagulating_seat (h : RoomReady s) (hv : (s.vat v).stage = .setting ∨ (s.vat v).stage = .cutWindow)
    (ho : s.orderedFor v = none) : ∃ o, (o = none ∨ o = some .cutList) ∧ s.named v = onlyAt o ∧
      (s.vat v).carriage = none ∧ (s.vat v).lot = none := by
  rcases hv with e | e
  · exact ⟨none, .inl rfl, h.unseated (by simp [e])⟩
  · have hc := h.claims v
    unfold State.claimed at hc
    simp only [e] at hc
    obtain ⟨hl, ⟨hp, hcar⟩ | ⟨c, hp, hcar, hst⟩⟩ := hc
    · exact ⟨_, .inr rfl, State.places_eq_singleton_iff.mp hp, hcar, hl⟩
    · simp [State.orderedFor, e, hcar, hst] at ho

theorem RoomReady.leaveCut (h : RoomReady s) (ho : o = none ∨ o = some .cutList) (hn : s.named v = onlyAt o)
    {f : VatRecord → VatRecord} (hs : (f (s.vat v)).stage ∈ [Stage.vacant, .charged, .setting, .working, .overset])
    (hc : (f (s.vat v)).carriage = none) (hl : (f (s.vat v)).lot = none) : RoomReady ((s.leaveCut v).modVat v f) :=
  h.of_cut (((Reseats.leaveCut hn ho).trans (.modVat _ v f none)).claims h.claims hn
    (State.seat_none (State.modVat_vat_same _ v f) hs hc hl)) rfl rfl rfl h.carriages

/-- The order that stands for a vat is the order of the carriage that holds it. -/
theorem RoomReady.orderedFor_carriage (h : RoomReady s) {c : Carriage} (ho : s.orderedFor v = some c) :
    (s.carriage c).vat = some v ∧ (s.carriage c).state = .ordered := by
  unfold State.orderedFor at ho
  split at ho
  case h_2 => cases ho
  case h_1 d hst hd =>
    split at ho
    case isFalse => cases ho
    case isTrue hord =>
      cases ho
      have hc := h.claims v
      unfold State.claimed at hc
      simp only [hst] at hc
      obtain ⟨-, ⟨-, hnone⟩ | ⟨c', hp, hc', -⟩⟩ := hc
      · rw [hd] at hnone
        cases hnone
      · rw [hd] at hc'
        cases hc'
        refine ⟨?_, hord⟩
        have := congrFun (State.places_eq_singleton_iff.mp hp) (.carriage c)
        by_contra hne
        simp [State.named, onlyAt, hne] at this

theorem RoomReady.applyCutClose (h : RoomReady s) (hv : (s.vat v).stage = .setting ∨ (s.vat v).stage = .cutWindow) :
    RoomReady (s.applyCutClose v) := by
  unfold State.applyCutClose
  cases ho : s.orderedFor v with
  | some c =>
    obtain ⟨hcv, hord⟩ := h.orderedFor_carriage ho
    exact ((h.withdrawCut hcv hord .cutClose false).raiseBoth _ _ _).cutLook
  | none =>
    obtain ⟨o, hor, hn, hcar, hlot⟩ := h.coagulating_seat hv ho
    refine RoomReady.raiseBoth ?_ _ _ _
    exact h.leaveCut hor hn (f := fun r => { r with stage := .overset, stepPending := .nothing }) (by simp) hcar hlot

theorem RoomReady.applyCutStartExpiry (h : RoomReady s) {c : Carriage} (hst : (s.carriage c).state = .ordered) :
    RoomReady (s.applyCutStartExpiry c) := by
  unfold State.applyCutStartExpiry
  split
  · exact h
  · rename_i v hv
    have hm : RoomReady (s.modCarriage c fun k => { k with missed := k.missed + 1 }) :=
      h.modCarriage c rfl (fun _ => .rfl) (h.carriages c)
    have hw := hm.withdrawCut (v := v) (c := c) (by rw [State.modCarriage_carriage_same]; exact hv)
      (by rw [State.modCarriage_carriage_same]; exact hst) .startLimit
    dsimp only
    refine RoomReady.cutLook ?_
    split
    · exact (hw _).raiseBoth _ _ _
    · exact hw _

theorem RoomReady.applySliceExpiry (h : RoomReady s) {c : Carriage} (hst : (s.carriage c).state = .cutting) :
    RoomReady (s.applySliceExpiry c) := by
  refine RoomReady.raiseBoth (h.modCarriage c rfl (fun _ => ?_) fun e => by cases e) _ _ _
  simp [hst]

theorem RoomReady.startCut (h : RoomReady s) {c : Carriage} (hst : (s.carriage c).state = .ordered) :
    RoomReady (s.startCut c) := by
  unfold State.startCut State.modVatOf
  split
  · rename_i v hv
    obtain ⟨hn, -, hcar, hlot⟩ := h.ordered_seat hv hst
    have hr := (Reseats.holdCarriage s c (f := fun k => k.started s.clock s.settings.cutSliceLimit) hv hv
      (some (.carriage c))).trans (.modVat _ v (fun r => { r with stage := .cutting }) _)
    have hcars : ∀ d, ((s.modCarriage c fun k => k.started s.clock s.settings.cutSliceLimit).carriage d).state = .free →
        ((s.modCarriage c fun k => k.started s.clock s.settings.cutSliceLimit).carriage d).vat = none :=
      h.free_modCarriage fun e => by cases e
    refine h.of_cut (hr.claims h.claims hn ?_) rfl rfl rfl hcars
    have hvat := State.modVat_vat_same (s.modCarriage c fun k => k.started s.clock s.settings.cutSliceLimit) v fun r =>
      { r with stage := .cutting }
    refine ⟨.inr ⟨congrArg _ hvat, ?_⟩, (congrArg _ hvat).trans hcar, (congrArg _ hvat).trans hlot⟩
    rw [State.modVat_carriage, State.modCarriage_carriage_same]
    simp [CarriageRecord.started]
  · rename_i hv
    exact h.modCarriage c rfl (by simp [hv]) fun _ => hv

end Sys2Proof.Machine
end

section
/-! PROOFS. The lot list and the line, and that the work of the curd line arbiter keeps the claims. -/

namespace Sys2Proof.Machine

variable {s t u : State} {v w : Vat} {o o' : Option Place} {x : Lot} {n : Nat}

/-! ### The lot list -/

theorem State.findLot_eq_some (h : s.findLot n = some x) : x ∈ s.lots ∧ x.number = n :=
  ⟨List.mem_of_find?_eq_some h, by simpa using List.find?_some h⟩

/-- A lot that is not PRESSING is the line's current lot. -/
theorem LotListHolds.currentLot (h : LotListHolds s) (hf : s.findLot n = some x) (hx : x.state ≠ .pressing) :
    s.line.current = some x.number ∧ s.currentLot = some x := by
  obtain ⟨hmem, hn⟩ := State.findLot_eq_some hf
  have hc := h.current x hmem hx
  refine ⟨hc, ?_⟩
  rw [State.currentLot, hc, hn]
  exact hf

theorem State.currentLot_eq_some (h : s.currentLot = some x) : s.findLot x.number = some x ∧ s.line.current = some x.number := by
  obtain ⟨m, hm, hf⟩ := Option.bind_eq_some_iff.mp h
  obtain ⟨-, hn⟩ := State.findLot_eq_some hf
  rw [hn]
  exact ⟨hf, hm⟩

/-- In a list of lots with different numbers, the lot of a number removed. -/
theorem mem_withoutLot {lots : List Lot} (hn : (lots.map Lot.number).Nodup) (y : Lot) :
    y ∈ withoutLot lots n ↔ y ∈ lots ∧ y.number ≠ n := by
  unfold withoutLot
  cases hp : pick? (fun x : Lot => decide (x.number = n)) lots with
  | none =>
    have hnone := pick?_eq_none.mp hp
    rw [dropOne_of_none hnone]
    exact ⟨fun hy => ⟨hy, by simpa using hnone y hy⟩, And.left⟩
  | some q =>
    obtain ⟨x, rest⟩ := q
    obtain ⟨before, behind, rfl, rfl, hx, hb⟩ := pick?_eq_some.mp hp
    rw [dropOne_append (p := fun x : Lot => decide (x.number = n)) hx hb]
    have hxn : x.number = n := by simpa using hx
    rw [List.map_append, List.map_cons] at hn
    have hbehind : ∀ y ∈ behind, y.number ≠ n := fun y hy e =>
      (List.nodup_cons.mp (List.nodup_append.mp hn).2.1).1 (List.mem_map.mpr ⟨y, hy, by rw [e, hxn]⟩)
    have hbefore : ∀ y ∈ before, y.number ≠ n := fun y hy => by simpa using hb y hy
    simp only [List.mem_append, List.mem_cons]
    constructor
    · rintro (hy | hy)
      · exact ⟨.inl hy, hbefore y hy⟩
      · exact ⟨.inr (.inr hy), hbehind y hy⟩
    · rintro ⟨hy | rfl | hy, hne⟩
      · exact .inl hy
      · exact absurd hxn hne
      · exact .inr hy

theorem withoutLot_sublist (lots : List Lot) (n : Nat) : (withoutLot lots n).Sublist lots := dropOne_sublist _ lots

/-- The lot list of a line with no current lot: every lot is PRESSING. -/
theorem LotsFit.of_empty (hn : (t.lots.map Lot.number).Nodup) (hp : ∀ y ∈ t.lots, y.state = .pressing)
    (hc : t.line.current = none) (hroom : t.lots.length ≤ Config.lotRoom)
    (hcount : 1 ≤ t.line.lotCounter ∧ t.line.lotCounter ≤ 4095) : LotsFit t := by
  refine ⟨⟨hn, fun y hy hne => absurd (hp y hy) hne, fun m hm => ?_⟩, hroom, hcount, fun _ => hc⟩
  rw [hc] at hm
  cases hm

/-- Every lot other than the current one is PRESSING. -/
theorem LotListHolds.others_pressing (h : LotListHolds s) (hx : s.currentLot = some x) {y : Lot} (hy : y ∈ s.lots)
    (hne : y.number ≠ x.number) : y.state = .pressing := by
  by_contra hp
  have := h.current y hy hp
  rw [(State.currentLot_eq_some hx).2] at this
  exact hne (Option.some.inj this).symm

/-- The current lot leaves the list, and the line has none. -/
theorem LotsFit.dropCurrent (h : LotsFit s) (hx : s.currentLot = some x) (hlots : t.lots = withoutLot s.lots x.number)
    (hc : t.line.current = none) (hcount : t.line.lotCounter = s.line.lotCounter) : LotsFit t := by
  refine .of_empty ?_ (fun y hy => ?_) hc ?_ (hcount ▸ h.counter)
  · rw [hlots]
    exact ((withoutLot_sublist _ _).map _).nodup h.list.numbers
  · rw [hlots] at hy
    obtain ⟨hmem, hne⟩ := (mem_withoutLot h.list.numbers y).mp hy
    exact h.list.others_pressing hx hmem hne
  · rw [hlots]
    exact (withoutLot_sublist _ _).length_le.trans h.room

theorem map_number_modLot {f : Lot → Lot} (hf : ∀ y, (f y).number = y.number) (lots : List Lot) (n : Nat) :
    (lots.map fun y => if y.number = n then f y else y).map Lot.number = lots.map Lot.number := by
  rw [List.map_map]
  refine List.map_congr_left fun y _ => ?_
  simp only [Function.comp_def]
  split
  · exact hf y
  · rfl

/-- The current lot enters PRESSING, and the line has none. -/
theorem LotsFit.pressCurrent (h : LotsFit s) (hx : s.currentLot = some x) {f : Lot → Lot}
    (hf : ∀ y, (f y).number = y.number) (hp : ∀ y, (f y).state = .pressing)
    (hlots : t.lots = s.lots.map fun y => if y.number = x.number then f y else y)
    (hc : t.line.current = none) (hcount : t.line.lotCounter = s.line.lotCounter) : LotsFit t := by
  refine .of_empty ?_ (fun y hy => ?_) hc ?_ (hcount ▸ h.counter)
  · rw [hlots, map_number_modLot hf]
    exact h.list.numbers
  · rw [hlots] at hy
    obtain ⟨z, hz, rfl⟩ := List.mem_map.mp hy
    split
    · exact hp z
    · rename_i hne
      exact h.list.others_pressing hx hz hne
  · rw [hlots, List.length_map]
    exact h.room

theorem State.findLot_modLot {f : Lot → Lot} (hf : ∀ y, (f y).number = y.number) (m : Nat) :
    (s.modLot n f).findLot m = (s.findLot m).map fun y => if y.number = n then f y else y := by
  unfold State.findLot State.modLot
  rw [List.find?_map]
  congr 1
  refine congrArg (List.find? · s.lots) (funext fun y => ?_)
  simp only [Function.comp_def]
  split
  · rw [hf]
  · rfl

/-! ### Reseats -/

/-- Only the lots and the line are changed. -/
theorem Reseats.of_line (hv : t.vats = s.vats) (hb : t.banks = s.banks) (hu : t.urgent = s.urgent)
    (ho : t.openList = s.openList) (hc : t.carriages = s.carriages) (hll : t.lateList = s.lateList)
    (hr : t.routine = s.routine) (hz : t.settings.zoneEnds = s.settings.zoneEnds)
    (hl : ∀ v, (t.currentLot.toList.countP fun x => decide (x.vat = v)) + (if v = w then onlyAt o .line else 0) =
      (s.currentLot.toList.countP fun x => decide (x.vat = v)) + (if v = w then onlyAt o' .line else 0))
    (he : ∀ p, p ≠ .line → onlyAt o p = onlyAt o' p)
    (hs : ∀ x, s.currentLot = some x → x.vat = w) : Reseats w o o' s t := by
  have hk : Keeps { s with lots := t.lots, line := t.line } t :=
    .of_records hv hb hu ho hc hll hr rfl rfl .rfl hz
  refine ⟨fun v p => ?_, fun v _ => hk.vats v, fun v => hk.bankOf v, fun c v hne hn => ?_, fun v hne hn => ?_⟩
  · rw [hk.named v]
    cases p
    case line =>
      have : ({ s with lots := t.lots, line := t.line } : State).currentLot = t.currentLot := rfl
      simpa only [State.named, this] using hl v
    all_goals
      rw [he _ (by simp)]
      rfl
  · exact hk.carried c v hn
  · cases hx : s.currentLot with
    | none => simp [State.named, hx] at hn
    | some x => simp [State.named, hx, hs x hx, Ne.symm hne] at hn

/-- The line's lot is done with. -/
theorem Reseats.leaveLine (hx : s.currentLot = some x) (hcur : t.line.current = none) (hv : t.vats = s.vats)
    (hb : t.banks = s.banks) (hu : t.urgent = s.urgent) (ho : t.openList = s.openList) (hc : t.carriages = s.carriages)
    (hll : t.lateList = s.lateList) (hr : t.routine = s.routine) (hz : t.settings.zoneEnds = s.settings.zoneEnds) :
    Reseats x.vat (some .line) none s t := by
  have hnone : t.currentLot = none := by rw [State.currentLot, hcur]; rfl
  refine .of_line hv hb hu ho hc hll hr hz (fun v => ?_) (fun p hp => (onlyAt_of_ne hp).symm) fun y hy => ?_
  · rw [hnone, hx]
    by_cases h : v = x.vat
    · subst h
      simp [onlyAt]
    · simp [h, Ne.symm h]
  · rw [hx] at hy
    cases hy
    rfl

/-- The line changes and keeps its lot's vat. -/
theorem Reseats.holdLine (hx : s.currentLot = some x) {y : Lot} (hy : t.currentLot = some y) (hxy : y.vat = x.vat)
    (hv : t.vats = s.vats)
    (hb : t.banks = s.banks) (hu : t.urgent = s.urgent) (ho : t.openList = s.openList) (hc : t.carriages = s.carriages)
    (hll : t.lateList = s.lateList) (hr : t.routine = s.routine) (hz : t.settings.zoneEnds = s.settings.zoneEnds)
    (o : Option Place) : Reseats x.vat o o s t := by
  refine .of_line hv hb hu ho hc hll hr hz (fun v => ?_) (fun _ _ => rfl) fun z hz => ?_
  · rw [hx, hy]
    simp [List.countP_cons, hxy]
  · rw [hx] at hz
    cases hz
    rfl

/-- A line with no lot is granted to a vat. -/
theorem Reseats.takeLine (hs : s.currentLot = none) (hx : t.currentLot = some x) (hv : t.vats = s.vats)
    (hb : t.banks = s.banks) (hu : t.urgent = s.urgent) (ho : t.openList = s.openList) (hc : t.carriages = s.carriages)
    (hll : t.lateList = s.lateList) (hr : t.routine = s.routine) (hz : t.settings.zoneEnds = s.settings.zoneEnds) :
    Reseats x.vat none (some .line) s t := by
  refine .of_line hv hb hu ho hc hll hr hz (fun v => ?_) (fun p hp => onlyAt_of_ne hp) fun y hy => ?_
  · rw [hs, hx]
    by_cases h : v = x.vat
    · subst h
      simp [onlyAt]
    · simp [h, Ne.symm h]
  · rw [hs] at hy
    cases hy

/-- An entry of vat `w` leaves the dump lists. -/
theorem Reseats.removeDump (s : State) {late routine before behind : List DumpEntry} {e : DumpEntry} (he : e.vat = w)
    (hl : s.lateList ++ s.routine = before ++ e :: behind) (hl' : late ++ routine = before ++ behind) :
    Reseats w (some .dumpList) none s { s with lateList := late, routine := routine } := by
  refine ⟨fun v p => ?_, fun _ _ => ⟨rfl, rfl, rfl⟩, fun _ => rfl, fun _ _ _ _ => .rfl, fun _ _ _ => ⟨rfl, .rfl⟩⟩
  cases p
  case dumpList =>
    simp only [State.named]
    rw [countP_insert _ hl' hl, he]
    by_cases hv : v = w
    · subst hv
      simp [onlyAt]
    · simp [hv, Ne.symm hv]
  all_goals
    rw [← onlyAt_of_ne (by simp)]
    rfl

theorem Reseats.withoutDump {x : DumpChoice} (hx : s.chooseDump = some x) :
    Reseats x.entry.vat (some .dumpList) none s (s.withoutDump x) := by
  unfold State.withoutDump
  rcases State.chooseDump_eq_some hx with ⟨hl, hp⟩ | ⟨hl, -, hp⟩ <;>
    obtain ⟨before, behind, hlist, hrest, -, -⟩ := pick?_eq_some.mp hp <;> rw [hl]
  · exact .removeDump s (before := before) (behind := behind ++ s.routine) rfl
      (by rw [hlist, List.append_assoc, List.cons_append]) (by rw [hrest, List.append_assoc])
  · exact .removeDump s (before := s.lateList ++ before) (behind := behind) rfl (by rw [hlist, List.append_assoc])
      (by rw [hrest, List.append_assoc])

/-! ### The curd line arbiter -/

/-- Work of the curd line arbiter, by its claims and its lots. -/
theorem RoomReady.of_line (h : RoomReady s) (hclaims : ClaimsHold t) (hlots : LotsFit t)
    (hcar : t.carriages = s.carriages) (hbanks : t.banks = s.banks) : RoomReady t := by
  refine ⟨hclaims, hlots, fun c => ?_, fun b => ?_⟩
  · have : t.carriage c = s.carriage c := by simp only [State.carriage, hcar]
    rw [this]
    exact h.carriages c
  · have : t.bank b = s.bank b := by simp only [State.bank, hbanks]
    rw [this]
    exact h.banks b

/-- The vat of the line's lot. -/
theorem RoomReady.line_seat (h : RoomReady s) (hx : s.currentLot = some x) :
    s.named x.vat = onlyAt (some .line) ∧ s.Seat x.vat (some .line) :=
  (h.claims x.vat).seat_of_named (by simp [State.named, hx])

theorem LotsFit.lotToIssue_free (h : LotsFit s) : ∀ y ∈ s.lots, y.number ≠ s.lotToIssue := by
  have hlen : s.lots.length < 4095 := lt_of_le_of_lt h.room (by decide)
  have := freeLot_not_mem h.counter.1 h.counter.2 hlen
  exact fun y hy e => this (List.mem_map.mpr ⟨y, hy, e⟩)

theorem nextLot_range (n : Nat) : 1 ≤ nextLot n ∧ nextLot n ≤ 4095 := by
  unfold nextLot
  split <;> omega

/-- A FREE line is granted: the lot is the only one that is not PRESSING, and it is found by its number. -/
theorem LotsFit.applyLineGrant (h : LotsFit s) (hfree : s.line.state = .free) (hroom : s.lots.length < 12) (x : DumpChoice) :
    LotsFit (s.applyLineGrant x) ∧ (s.applyLineGrant x).currentLot = some (s.lotFor x) := by
  have hlots := State.applyLineGrant_lots (s := s) x
  have hline := State.applyLineGrant_line (s := s) x
  have hempty := h.free hfree
  have hpress : ∀ y ∈ s.lots, y.state = .pressing := fun y hy => by
    by_contra hp
    have := h.list.current y hy hp
    rw [hempty] at this
    cases this
  have hfind : (s.applyLineGrant x).findLot (s.lotFor x).number = some (s.lotFor x) := by
    rw [State.findLot, hlots, List.find?_append,
      List.find?_eq_none.mpr fun y hy => by
        rw [decide_eq_true_eq]
        exact h.lotToIssue_free y hy]
    simp
  refine ⟨⟨⟨?_, fun y hy hne => ?_, fun m hm => ?_⟩, ?_, ?_, fun e => ?_⟩, ?_⟩
  · rw [hlots, List.map_append, List.map_singleton, List.nodup_append]
    refine ⟨h.list.numbers, List.nodup_singleton _, fun m hm k hk => ?_⟩
    obtain ⟨y, hy, rfl⟩ := List.mem_map.mp hm
    rw [List.mem_singleton.mp hk]
    exact h.lotToIssue_free y hy
  · rw [hlots] at hy
    rcases List.mem_append.mp hy with hy | hy
    · exact absurd (hpress y hy) hne
    · rw [List.mem_singleton.mp hy, hline]
  · rw [hline] at hm
    cases hm
    exact ⟨_, hfind, fun _ => rfl, fun e => by rw [hline] at e; exact absurd rfl e⟩
  · rw [hlots, List.length_append]
    exact Nat.succ_le_of_lt hroom
  · rw [hline]
    exact nextLot_range _
  · rw [hline] at e
    cases e
  · rw [State.currentLot, hline]
    exact hfind

theorem RoomReady.applyLineGrant (h : RoomReady s) (hfree : s.line.state = .free) (hroom : s.lots.length < 12)
    {x : DumpChoice} (hx : s.chooseDump = some x) : RoomReady (s.applyLineGrant x) := by
  obtain ⟨hfit, hcur⟩ := h.lots.applyLineGrant hfree hroom x
  have hnamed : s.named x.entry.vat .dumpList ≠ 0 :=
    (List.countP_pos_iff.mpr ⟨_, (State.chooseDump_mem hx).1, by simp⟩).ne'
  obtain ⟨hn, hstage, hcar, -⟩ := (h.claims x.entry.vat).seat_of_named hnamed
  have hvat := State.applyLineGrant_vat_same (s := s) x
  have hnone : (s.withoutDump x).currentLot = none := by
    have : (s.withoutDump x).line = s.line := by unfold State.withoutDump; split <;> rfl
    rw [State.currentLot, this, h.lots.free hfree]
    rfl
  obtain ⟨-, hbanks, hcarriages, -, -⟩ := State.applyLineGrant_keeps (s := s) x
  have htake := Reseats.takeLine (t := { s.withoutDump x with
    lots := (s.applyLineGrant x).lots, line := (s.applyLineGrant x).line }) hnone hcur rfl rfl rfl rfl rfl rfl rfl rfl
  have heq : s.applyLineGrant x = ((({ s.withoutDump x with
      lots := (s.applyLineGrant x).lots, line := (s.applyLineGrant x).line } : State).modVat x.entry.vat fun r =>
        { r with lot := some (s.lotFor x).number }).raise .press (s.dumpOrderFor (s.lotFor x))) := by
    unfold State.applyLineGrant State.withoutDump
    cases x.fromLate <;> rfl
  have hr : Reseats x.entry.vat (some .dumpList) (some .line) s (s.applyLineGrant x) := by
    have := (((Reseats.withoutDump hx).trans htake).trans (.modVat _ _ (fun r => { r with lot := some (s.lotFor x).number })
      _)).trans ((Keeps.raise _ .press (s.dumpOrderFor (s.lotFor x))).reseats _ _)
    exact heq ▸ this
  refine h.of_line (hr.claims h.claims hn ?_) hfit hcarriages hbanks
  have hline := State.applyLineGrant_line (s := s) x
  refine ⟨.inl ⟨(congrArg _ hvat).trans hstage, by rw [hline]⟩, (congrArg _ hvat).trans hcar, ?_⟩
  rw [hline]
  exact congrArg _ hvat

end Sys2Proof.Machine
end

section
/-! PROOFS. The work of the vat table and of the curd line keeps the claims. -/

namespace Sys2Proof.Machine

variable {s t u m : State} {v w : Vat} {o o' : Option Place} {x : Lot} {n : Nat} {b : Bank}

/-! ### The line looks, and its record changes -/

theorem RoomReady.lineLook (h : RoomReady s) : RoomReady s.lineLook := by
  rcases s.lineLook_cases with e | ⟨⟨hl, -, -, -, hn⟩, x, hx, e⟩
  · rwa [e]
  · rw [e]
    exact h.applyLineGrant hl hn hx

/-- The line record changed, with its lot and ORDERED as before. -/
theorem RoomReady.modLine (h : RoomReady s) {f : LineRecord → LineRecord} (hc : (f s.line).current = s.line.current)
    (hst : (f s.line).state = .ordered ↔ s.line.state = .ordered)
    (hfree : (f s.line).state = .free → s.line.current = none) (hn : (f s.line).lotCounter = s.line.lotCounter) :
    RoomReady (s.modLine f) := by
  have hk : Keeps s (s.modLine f) := .of_records rfl rfl rfl rfl rfl rfl rfl rfl hc hst rfl
  obtain ⟨⟨hnum, hcur, hlist⟩, hroom, hcount, -⟩ := h.lots
  refine h.of_line (hk.claims h.claims) ⟨⟨hnum, fun y hy hp => hc.trans (hcur y hy hp), fun n e => ?_⟩, hroom, ?_, ?_⟩ rfl
    rfl
  · obtain ⟨y, hy, ho, hr⟩ := hlist n (hc.symm.trans e)
    exact ⟨y, hy, fun e => ho (hst.mp e), fun e => hr fun e' => e (hst.mpr e')⟩
  · exact hn.symm ▸ hcount
  · exact fun e => hc.trans (hfree e)

/-! ### Vats that join the dump lists -/

theorem State.joinDump_eq (s : State) (v : Vat) (kind : EntryKind) (early : Bool) :
    ∃ late routine, s.joinDump v kind early = { s with lateList := late, routine := routine } := by
  unfold State.joinDump
  split <;> exact ⟨_, _, rfl⟩

theorem State.returnDump_eq (s : State) (v : Vat) (kind : EntryKind) (early : Bool) :
    ∃ late routine, s.returnDump v kind early = { s with lateList := late, routine := routine } := by
  unfold State.returnDump
  split <;> exact ⟨_, _, rfl⟩

/-- A vat that has left its seat becomes DUMP-QUEUED, and its entry joins. -/
theorem RoomReady.joinDump (h : RoomReady s) (hn : s.named v = onlyAt o) (hr : Reseats v o none s m)
    (hline : m.line = s.line) (hlots : m.lots = s.lots) (hbanks : m.banks = s.banks)
    (hcar : ∀ c, (m.carriage c).state = .free → (m.carriage c).vat = none) {f : VatRecord → VatRecord}
    (hs : (f (m.vat v)).stage = .dumpQueued) (hc : (f (m.vat v)).carriage = none) (hl : (f (m.vat v)).lot = none)
    (kind : EntryKind) (early : Bool) : RoomReady ((m.modVat v f).joinDump v kind early) := by
  have hr' := (hr.trans (.modVat m v f none)).trans (.joinDump _ v kind early)
  obtain ⟨late, routine, e⟩ := State.joinDump_eq (m.modVat v f) v kind early
  rw [e] at hr' ⊢
  refine h.of_cut (hr'.claims h.claims hn ?_) hline hlots hbanks hcar
  have hv := State.modVat_vat_same m v f
  exact ⟨(congrArg _ hv).trans hs, (congrArg _ hv).trans hc, (congrArg _ hv).trans hl⟩

theorem Reseats.refl (s : State) (w : Vat) (o : Option Place) : Reseats w o o s s := (Keeps.refl s).reseats w o

/-- A vat without a seat changes and joins the dump queue. -/
theorem RoomReady.queueDump (h : RoomReady s)
    (hv : (s.vat v).stage ∈ [Stage.vacant, .charged, .setting, .working, .overset]) (kind : EntryKind) (early : Bool) :
    RoomReady (s.queueDump v kind early) := by
  obtain ⟨hn, hc, hl⟩ := h.unseated hv
  exact h.joinDump hn (.refl s v none) rfl rfl rfl h.carriages rfl hc hl kind early

theorem RoomReady.queueRoutine (h : RoomReady s)
    (hv : (s.vat v).stage ∈ [Stage.vacant, .charged, .setting, .working, .overset]) : RoomReady (s.queueRoutine v) := by
  obtain ⟨hn, hc, hl⟩ := h.unseated hv
  refine h.of_cut ((Reseats.queueRoutine s v).claims h.claims hn ?_) rfl rfl rfl h.carriages
  have hm := State.modVat_vat_same s v fun r => { r with stage := .dumpQueued, stepPending := .nothing }
  exact ⟨congrArg _ hm, (congrArg _ hm).trans hc, (congrArg _ hm).trans hl⟩

theorem RoomReady.moveLate (h : RoomReady s) (hm : s.moveLate v = some t) : RoomReady t := by
  unfold State.moveLate at hm
  split at hm
  · rename_i e rest hp
    cases hm
    obtain ⟨before, behind, hl, rfl, -, -⟩ := pick?_eq_some.mp hp
    refine h.of_cut ((Keeps.dumpLists s ?_).claims h.claims) rfl rfl rfl h.carriages
    rw [hl, List.append_assoc, List.singleton_append]
    exact (List.perm_middle.symm).append_left _
  · cases hm

theorem RoomReady.applyHealMin (h : RoomReady s) (hv : (s.vat v).stage = .working) : RoomReady (s.applyHealMin v) := by
  have hu : (s.vat v).stage ∈ [Stage.vacant, .charged, .setting, .working, .overset] := by simp [hv]
  unfold State.applyHealMin
  split_ifs
  · exact (h.modVat v rfl rfl rfl).raise _ _
  · exact (h.queueRoutine hu).lineLook
  · exact (h.queueDump hu _ _).lineLook

theorem RoomReady.healMinAtOnce (h : RoomReady s) (v : Vat) : RoomReady (s.healMinAtOnce v) := by
  unfold State.healMinAtOnce
  split
  · rename_i hd
    simp only [State.healMinDue, Bool.and_eq_true, decide_eq_true_eq] at hd
    exact h.applyHealMin hd.1.1
  · exact h

theorem RoomReady.applyHealMax (h : RoomReady s) (v : Vat) : RoomReady (s.applyHealMax v) := by
  unfold State.applyHealMax
  split
  · exact h.modVat v rfl rfl rfl
  · split
    · rename_i hm
      exact (h.moveLate hm).lineLook
    · exact h

/-- The advance that waits is made in a vat without a seat. -/
theorem RoomReady.advance (h : RoomReady s) (hopen : (s.vat v).stepPending = .cutOpen → (s.vat v).stage = .setting)
    (hheal : (s.vat v).stepPending = .healMin → (s.vat v).stage = .working) : RoomReady (s.advance v) := by
  unfold State.advance
  split
  · exact h
  · rename_i hp
    exact (h.enterCutWindow (.inl (hopen hp))).cutLook
  · rename_i hp
    exact (h.queueDump (by simp [hheal hp]) _ _).lineLook

/-! ### Vats that change without a seat -/

/-- A vat without a seat goes on to a stage without one. -/
theorem RoomReady.unseat (h : RoomReady s)
    (hv : (s.vat v).stage ∈ [Stage.vacant, .charged, .setting, .working, .overset]) {f : VatRecord → VatRecord}
    (hs : (f (s.vat v)).stage ∈ [Stage.vacant, .charged, .setting, .working, .overset])
    (hc : (f (s.vat v)).carriage = (s.vat v).carriage) (hl : (f (s.vat v)).lot = (s.vat v).lot) :
    RoomReady (s.modVat v f) := by
  obtain ⟨hn, hcar, hlot⟩ := h.unseated hv
  exact h.of_cut ((Reseats.modVat s v f none).claims h.claims hn
    (State.seat_none (State.modVat_vat_same s v f) hs (hc.trans hcar) (hl.trans hlot))) rfl rfl rfl h.carriages

theorem RoomReady.declareVat (h : RoomReady s) {d : Declaration} (hv : (s.vat v).stage = .vacant)
    (hd : d.stage = .charged ∨ d.stage = .working ∨ d.stage = .dumpQueued) : RoomReady (s.declareVat d v) := by
  have hu : (s.vat v).stage ∈ [Stage.vacant, .charged, .setting, .working, .overset] := by simp [hv]
  unfold State.declareVat
  dsimp only
  rcases hd with e | e | e <;> simp only [e]
  · exact h.unseat hu (by simp [VatRecord.declare, e]) rfl rfl
  · rw [State.modVat_modVat]
    exact (h.unseat hu (by simp [VatRecord.declare, VatRecord.healFrom, e]) rfl rfl).healMinAtOnce v
  · obtain ⟨hn, hc, hl⟩ := h.unseated hu
    exact (h.joinDump hn (.refl s v none) rfl rfl rfl h.carriages e hc hl _ _).lineLook

/-! ### Cuts that end, and vats that are discarded -/

/-- The vat of a carriage. -/
theorem RoomReady.carried_seat (h : RoomReady s) {c : Carriage} (hv : (s.carriage c).vat = some v) :
    s.named v = onlyAt (some (.carriage c)) ∧ (s.vat v).lot = none := by
  obtain ⟨hn, -, -, hl⟩ := (h.claims v).seat_of_named (p := .carriage c) (by simp [State.named, hv])
  exact ⟨hn, hl⟩

/-- A carriage whose cut has ended (R105). -/
def CarriageRecord.afterCut (k : CarriageRecord) (clock : Nat) : CarriageRecord :=
  if k.state = .cutting then { k.released with state := .free, freeSince := clock } else k.released

theorem CarriageRecord.afterCut_vat (k : CarriageRecord) (clock : Nat) : (k.afterCut clock).vat = none := by
  unfold CarriageRecord.afterCut
  split <;> rfl

theorem State.endCut_eq (s : State) (c : Carriage) : s.endCut c =
    (s.modCarriage c fun k => k.afterCut s.clock).modVatOf (s.carriage c).vat fun r => r.cutAt s.clock := rfl

theorem RoomReady.endCut (h : RoomReady s) (c : Carriage) : RoomReady (s.endCut c) := by
  have hnone := (s.carriage c).afterCut_vat s.clock
  have hcars := h.free_modCarriage (c := c) (f := fun k => k.afterCut s.clock) fun _ => hnone
  rw [State.endCut_eq]
  cases hv : (s.carriage c).vat with
  | some v =>
    obtain ⟨hn, hlot⟩ := h.carried_seat hv
    have hr := (Reseats.freeCarriage s c (f := fun k => k.afterCut s.clock) hv hnone).trans
      (.modVat _ v (fun r => r.cutAt s.clock) none)
    refine h.of_cut (hr.claims h.claims hn ?_) rfl rfl rfl hcars
    exact State.seat_none (State.modVat_vat_same _ v _) (by simp [VatRecord.cutAt]) rfl hlot
  | none =>
    refine h.of_cut ((Keeps.modCarriage s c (hnone.trans hv.symm) fun e => ?_).claims h.claims) rfl rfl rfl hcars
    rw [hv] at e
    cases e

theorem RoomReady.healMinAfterCut (h : RoomReady s) (v : Option Vat) : RoomReady (s.healMinAfterCut v) := by
  cases v with
  | none => exact h
  | some v => exact h.healMinAtOnce v

/-- A vat that the cut lists do not name leaves them as they are. -/
theorem State.leaveCut_of_unlisted (h : s.named v .cutList = 0) : s.leaveCut v = s := by
  have hno := List.countP_eq_zero.mp h
  unfold State.leaveCut
  rw [dropOne_of_none fun e he => ?_, dropOne_of_none fun e he => ?_]
  · simpa using hno e (List.mem_append_right _ he)
  · simpa using hno e (List.mem_append_left _ he)

theorem State.releaseCarriageOf_of_not_cutting (h : (s.vat v).stage ≠ .cutting) : s.releaseCarriageOf v = s := by
  unfold State.releaseCarriageOf
  split
  · contradiction
  · rfl

/-- `m` is `s` with the vat taken out of its seat. -/
def State.Leaves (s : State) (v : Vat) (m : State) : Prop :=
  ∃ o, s.named v = onlyAt o ∧ Reseats v o none s m ∧ (∀ c, (m.carriage c).state = .free → (m.carriage c).vat = none) ∧
    (m.vat v).carriage = none ∧ (m.vat v).lot = none

/-- A vat that is discarded leaves its seat (R45, R46). -/
theorem RoomReady.leaves_discarded (h : RoomReady s) (hd : s.discardable v = true) :
    s.Leaves v ((s.leaveCut v).releaseCarriageOf v) := by
  have free (hu : (s.vat v).stage ∈ [Stage.vacant, .charged, .setting, .working, .overset]) :
      s.Leaves v ((s.leaveCut v).releaseCarriageOf v) := by
    obtain ⟨hn, hc, hl⟩ := h.unseated hu
    have hne : (s.vat v).stage ≠ .cutting := by intro e; simp [e] at hu
    rw [State.leaveCut_of_unlisted (by rw [hn]; rfl), State.releaseCarriageOf_of_not_cutting hne]
    exact ⟨none, hn, .refl s v none, h.carriages, hc, hl⟩
  have hc := h.claims v
  unfold State.claimed at hc
  unfold State.discardable at hd
  dsimp only at hd
  split at hd
  case h_1 e => exact free (by simp [e])
  case h_2 e => exact free (by simp [e])
  case h_5 e => exact free (by simp [e])
  case h_6 e => exact free (by simp [e])
  case h_7 => cases hd
  case h_3 e =>
    simp only [e] at hc
    obtain ⟨hl, ⟨hp, hcar⟩ | ⟨c, -, hcar, -⟩⟩ := hc
    · have hn := State.places_eq_singleton_iff.mp hp
      rw [State.releaseCarriageOf_of_not_cutting (s := s.leaveCut v) (by change (s.vat v).stage ≠ _; rw [e]; decide)]
      exact ⟨_, hn, .leaveCut hn (.inr rfl), h.carriages, hcar, hl⟩
    · simp [hcar] at hd
  case h_4 e =>
    simp only [e] at hc
    obtain ⟨hl, c, hp, hcar, -⟩ := hc
    have hn := State.places_eq_singleton_iff.mp hp
    have hv : (s.carriage c).vat = some v := by
      by_contra hne
      have := congrFun hn (.carriage c)
      simp [State.named, onlyAt, hne] at this
    have he : s.releaseCarriageOf v =
        (s.modCarriage c CarriageRecord.released).modVat v fun r => { r with carriage := none } := by
      simp [State.releaseCarriageOf, e, hcar]
    rw [State.leaveCut_of_unlisted (by rw [hn]; rfl), he]
    refine ⟨_, hn, (Reseats.freeCarriage s c hv rfl).trans (.modVat _ v _ none), h.free_modCarriage fun _ => rfl, ?_, ?_⟩
    · rw [State.modVat_vat_same]
    · rw [State.modVat_vat_same]
      exact hl

theorem RoomReady.discard (h : RoomReady s) (hd : s.discardable v = true) : RoomReady (s.discard v) := by
  obtain ⟨o, hn, hr, hcar, hc, hl⟩ := h.leaves_discarded hd
  have hwork : ∀ m : State, (m.releaseCarriageOf v).line = m.line ∧ (m.releaseCarriageOf v).lots = m.lots ∧
      (m.releaseCarriageOf v).banks = m.banks := fun m => by
    unfold State.releaseCarriageOf
    split <;> exact ⟨rfl, rfl, rfl⟩
  obtain ⟨hline, hlots, hbanks⟩ := hwork (s.leaveCut v)
  unfold State.discard State.queueDump
  rw [State.modVat_modVat]
  exact (h.joinDump hn hr hline hlots hbanks hcar rfl hc hl _ _).lineLook

/-! ### Fills that are ordered, cancelled and resumed -/

theorem RoomReady.orderFill (h : RoomReady s) (hv : (s.vat v).stage = .vacant) (o : FillOrder) (times : ClassTimes) :
    RoomReady ((s.modVat v fun r => r.ordered o times).joinTransfer (s.bankOf v)
      { vat := v, kind := .fill, target := o.target, volume := 0, resumed := false }) := by
  obtain ⟨hn, hc, hl⟩ := h.unseated (v := v) (by simp [hv])
  refine RoomReady.joinTransfer ?_
  have hr := (Reseats.modVat s v (fun r => r.ordered o times) none).trans (.appendTransfer _ (s.bankOf v)
    { vat := v, kind := .fill, target := o.target, volume := 0, resumed := false })
  have hm := State.modVat_vat_same s v fun r => r.ordered o times
  refine h.of_banks (hr.claims h.claims hn ⟨rfl, ?_, ?_, ?_⟩) rfl rfl rfl
    (State.fits_modBank (m := s.modVat v fun r => r.ordered o times) h.banks (h.banks _))
  · rw [State.modBank_vat, hm]
    simp [VatRecord.ordered, TransferKind.listed]
  · rw [State.modBank_vat, hm]
    exact hc
  · rw [State.modBank_vat, hm]
    exact hl

/-- The listed entry of a fill is dropped, and its vat changes to one without a seat. -/
theorem RoomReady.dropListed (h : RoomReady s) (hn : s.named v = onlyAt (some (.bankList b .fill)))
    {t : State} (hr : Reseats v none none (s.dropTransfer b v) t) (hseat : t.Seat v none)
    (hline : t.line = s.line) (hlots : t.lots = s.lots) (hcar : t.carriages = s.carriages)
    (hbanks : t.banks = (s.dropTransfer b v).banks) : RoomReady t := by
  refine h.of_banks (((Reseats.dropTransfer hn).trans hr).claims h.claims hn hseat) hline hlots hcar fun b' => ?_
  have : t.bank b' = (s.dropTransfer b v).bank b' := by simp only [State.bank, hbanks]
  rw [this]
  exact h.fits_modBank (h.banks b) b'

theorem RoomReady.cancelQueued (h : RoomReady s) (hv : (s.vat v).stage = .fillQueued) :
    RoomReady (s.cancelQueued (s.bankOf v) v) := by
  have hc := h.claims v
  unfold State.claimed at hc
  simp only [hv] at hc
  refine RoomReady.parkLook ?_ _
  refine h.dropListed (State.places_eq_singleton_iff.mp hc.1) (.modVat _ v _ none) ?_ rfl rfl rfl rfl
  exact State.seat_none (State.modVat_vat_same _ v _) (by simp [VatRecord.cleared]) rfl rfl

theorem RoomReady.cancelListed (h : RoomReady s) (hv : (s.vat v).stage = .filling)
    (hlisted : ∀ c, (s.bank (s.bankOf v)).current = some c → c.entry.vat ≠ v) :
    RoomReady (s.cancelListed (s.bankOf v) v) := by
  have hc := h.claims v
  unfold State.claimed State.inBank at hc
  simp only [hv] at hc
  obtain ⟨hp | hp, hcar, hlot⟩ := hc
  · have hwork : (((s.dropTransfer (s.bankOf v) v).endFill v).line = s.line ∧
        ((s.dropTransfer (s.bankOf v) v).endFill v).lots = s.lots) ∧
        ((s.dropTransfer (s.bankOf v) v).endFill v).carriages = s.carriages ∧
        ((s.dropTransfer (s.bankOf v) v).endFill v).banks = (s.dropTransfer (s.bankOf v) v).banks := by
      unfold State.endFill
      split <;> exact ⟨⟨rfl, rfl⟩, rfl, rfl⟩
    obtain ⟨⟨hline, hlots⟩, hcars, hbanks⟩ := hwork
    refine RoomReady.parkLook ?_ _
    exact h.dropListed (State.places_eq_singleton_iff.mp hp) (.endFill _ v none) (State.endFill_seat hcar hlot) hline hlots
      hcars hbanks
  · have hn := congrFun (State.places_eq_singleton_iff.mp hp) (.bankTransfer (s.bankOf v) .fill)
    cases hcur : (s.bank (s.bankOf v)).current with
    | none => simp [State.named, onlyAt, hcur] at hn
    | some c => simp [State.named, onlyAt, hcur, hlisted c hcur] at hn

theorem RoomReady.cancelCurrent (h : RoomReady s) {c : Current} (hv : (s.vat c.entry.vat).stage = .filling)
    (hc : (s.bank b).current = some c) : RoomReady (s.cancelCurrent b c) := by
  unfold State.cancelCurrent
  split
  · obtain ⟨-, -, hst, -, -⟩ := h.current_seat hc
    have hk : c.entry.kind = .fill := by
      rw [hv] at hst
      cases e : c.entry.kind with
      | fill => rfl
      | wash => rw [e] at hst; cases hst
    refine h.modBank b rfl (by simp [BankRecord.feeding, hc]) fun c' hc' => ?_
    cases hc'
    exact ⟨(h.banks b c hc).1, fun _ => hk⟩
  · refine (h.dropFill hc rfl rfl).afterTransfer ?_
    have : ∀ m : State, ((m.endFill c.entry.vat).bank b) = m.bank b := fun m => by
      unfold State.endFill
      split <;> rfl
    rw [this, State.modBank_bank_same]

theorem RoomReady.resumeFill (h : RoomReady s) {c : Current} (hc : (s.bank b).current = some c) :
    RoomReady (s.resumeFill b c) := h.rephase hc rfl rfl rfl

/-! ### The curd line -/

/-- The vat of a lot that stands on the line. -/
theorem RoomReady.lot_seat (h : RoomReady s) (hf : s.findLot n = some x) (hx : x.state ≠ .pressing) :
    s.currentLot = some x ∧ s.line.current = some x.number ∧ s.named x.vat = onlyAt (some .line) ∧
      s.Seat x.vat (some .line) := by
  obtain ⟨hc, hcur⟩ := h.lots.list.currentLot hf hx
  exact ⟨hcur, hc, h.line_seat hcur⟩

theorem RoomReady.withdrawDump (h : RoomReady s) (hx : s.currentLot = some x) (hst : s.line.state = .ordered)
    (cause : DumpWithdrawCause) : RoomReady (s.withdrawDump x cause) := by
  obtain ⟨hn, hseat, hcar, -⟩ := h.line_seat hx
  have hstage : (s.vat x.vat).stage = .dumpQueued := by
    rcases hseat with ⟨e, -⟩ | ⟨-, hne⟩
    · exact e
    · exact absurd hst hne
  let m : State := State.modLine { s with lots := withoutLot s.lots x.number } fun k => k.released.freed s.clock
  have hleave : Reseats x.vat (some .line) none s m := .leaveLine hx rfl rfl rfl rfl rfl rfl rfl rfl rfl
  have hr := (hleave.trans (.modVat m x.vat (fun r => { r with lot := none }) none)).trans
    (.returnDump _ x.vat x.kind.entryKind x.early)
  have hlots : LotsFit m := h.lots.dropCurrent hx rfl rfl rfl
  unfold State.withdrawDump
  refine RoomReady.raise ?_ _ _
  change RoomReady ((m.modVat x.vat fun r => { r with lot := none }).returnDump x.vat x.kind.entryKind x.early)
  obtain ⟨late, routine, e⟩ := State.returnDump_eq (m.modVat x.vat fun r => { r with lot := none }) x.vat
    x.kind.entryKind x.early
  rw [e] at hr ⊢
  refine h.of_line (hr.claims h.claims hn ?_) (hlots.congr rfl rfl) rfl rfl
  have hm := State.modVat_vat_same m x.vat fun r => { r with lot := none }
  exact ⟨(congrArg _ hm).trans hstage, (congrArg _ hm).trans hcar, congrArg _ hm⟩

theorem RoomReady.applyDumpStartExpiry (h : RoomReady s) (hst : s.line.state = .ordered) :
    RoomReady s.applyDumpStartExpiry := by
  unfold State.applyDumpStartExpiry
  split
  · rename_i hx
    exact (h.withdrawDump hx hst _).lineLook
  · exact h

/-- The current lot changes with the line, to RUNNING. -/
theorem LotsFit.runCurrent (h : LotsFit s) (hx : s.currentLot = some x) {f : Lot → Lot}
    (hf : ∀ y, (f y).number = y.number) (hp : ∀ y, (f y).state = .running) (hlots : t.lots = (s.modLot x.number f).lots)
    (hc : t.line.current = s.line.current) (hst : t.line.state = .running)
    (hcount : t.line.lotCounter = s.line.lotCounter) : LotsFit t ∧ t.currentLot = some (f x) := by
  obtain ⟨hfind, hcur⟩ := State.currentLot_eq_some hx
  have hfound : t.findLot x.number = some (f x) := by
    have : t.findLot x.number = (s.modLot x.number f).findLot x.number := by
      rw [State.findLot, State.findLot, hlots]
    rw [this, State.findLot_modLot hf, hfind]
    simp
  refine ⟨⟨⟨?_, fun y hy hne => ?_, fun m hm => ?_⟩, ?_, hcount ▸ h.counter, fun e => ?_⟩, ?_⟩
  · rw [hlots, State.modLot, map_number_modLot hf]
    exact h.list.numbers
  · rw [hlots] at hy
    obtain ⟨z, hz, rfl⟩ := List.mem_map.mp hy
    rw [hc, hcur]
    split
    · rename_i e
      rw [hf, e]
    · rename_i e
      rw [if_neg e] at hne
      exact absurd (h.list.others_pressing hx hz e) hne
  · rw [hc, hcur] at hm
    cases hm
    exact ⟨_, hfound, fun e => absurd (hst.symm.trans e) (by decide), fun _ => hp x⟩
  · rw [hlots, State.modLot, List.length_map]
    exact h.room
  · rw [hst] at e
    cases e
  · rw [State.currentLot, hc, hcur]
    exact hfound

theorem RoomReady.startDump (h : RoomReady s) (hf : s.findLot n = some x) (hx : x.state = .ordered) :
    RoomReady (s.startDump x) := by
  obtain ⟨hcur, hc, hn, -, hcar, hlot⟩ := h.lot_seat hf (by simp [hx])
  let m : State := (s.modLine fun k =>
    { k with state := .running, startedAt := some s.clock, start := none,
             duration := some (.begin s.settings.dumpDurationLimit) }).modLot x.number fun x => { x with state := .running }
  obtain ⟨hlots, hcur'⟩ := h.lots.runCurrent (t := m) (f := fun x => { x with state := .running }) hcur (fun _ => rfl)
    (fun _ => rfl) rfl rfl rfl rfl
  have hhold : Reseats x.vat (some .line) (some .line) s m :=
    .holdLine hcur hcur' rfl rfl rfl rfl rfl rfl rfl rfl rfl _
  have hr := hhold.trans (.modVat m x.vat (fun r => { r with stage := .dumping }) _)
  refine h.of_line (hr.claims h.claims hn ?_) (hlots.congr rfl rfl) rfl rfl
  have hm := State.modVat_vat_same m x.vat fun r => { r with stage := .dumping }
  refine ⟨.inr ⟨congrArg _ hm, ?_⟩, (congrArg _ hm).trans hcar, (congrArg _ hm).trans hlot⟩
  show LineState.running ≠ .ordered
  decide

/-- A vat that has left the line is washed. -/
theorem RoomReady.queueWash (h : RoomReady s) (hn : s.named v = onlyAt (some .line))
    (hr : Reseats v (some .line) none s m) (hlots : LotsFit m) (hcar : m.carriages = s.carriages)
    (hbanks : m.banks = s.banks) (hc : (m.vat v).carriage = none) : RoomReady (m.queueWash v) := by
  refine RoomReady.joinTransfer ?_
  have hr' := (hr.trans (.modVat m v (fun r => { r with stage := .washing, lot := none }) none)).trans
    (.appendTransfer _ (m.bankOf v)
      { vat := v, kind := .wash, target := m.settings.washVolume, volume := 0, resumed := false })
  have hm := State.modVat_vat_same m v fun r => { r with stage := .washing, lot := none }
  have hfits : ∀ b, (m.bank b).Fits := fun b => by
    have : m.bank b = s.bank b := by simp only [State.bank, hbanks]
    rw [this]
    exact h.banks b
  refine ⟨hr'.claims h.claims hn ⟨rfl, ?_, ?_, ?_⟩, hlots.congr rfl rfl, fun c => ?_, 
    State.fits_modBank (m := m.modVat v fun r => { r with stage := .washing, lot := none }) hfits (hfits _)⟩
  · rw [State.modBank_vat, hm]
    simp [TransferKind.listed]
  · rw [State.modBank_vat, hm]
    exact hc
  · rw [State.modBank_vat, hm]
  · have : m.carriage c = s.carriage c := by simp only [State.carriage, hcar]
    rw [State.modBank_carriage, State.modVat_carriage, this]
    exact h.carriages c

theorem RoomReady.abandon (h : RoomReady s) (hf : s.findLot n = some x) (hx : x.state = .running) :
    RoomReady (s.abandon x) := by
  obtain ⟨hcur, -, hn, -, hcar, -⟩ := h.lot_seat hf (by simp [hx])
  refine RoomReady.lineLook (h.queueWash hn (.leaveLine hcur rfl rfl rfl rfl rfl rfl rfl rfl rfl) ?_ rfl rfl hcar)
  exact h.lots.dropCurrent hcur rfl rfl rfl

/-- What the end of a dump does to the lots and the line, up to the vat's wash (R128). -/
theorem LotsFit.finishLot (h : LotsFit s) (hx : s.currentLot = some x) (received : Nat) {f : LineRecord → LineRecord}
    (hc : (f s.line).current = none) (hcount : (f s.line).lotCounter = s.line.lotCounter) :
    LotsFit ((s.modLine f).finishLot x received) := by
  unfold State.finishLot
  split
  · exact h.dropCurrent hx rfl hc hcount
  · refine (h.pressCurrent (t := (s.modLine f).modLot x.number fun y => y.pressed s.settings.volumeTolerance received)
      (f := fun y => y.pressed s.settings.volumeTolerance received) hx (fun _ => rfl) (fun _ => rfl) rfl hc hcount).congr ?_ ?_
    · unfold State.raiseShort
      split <;> rfl
    · unfold State.raiseShort
      split <;> rfl

theorem RoomReady.endDump (h : RoomReady s) (hf : s.findLot n = some x) (hx : x.state = .running) (received : Nat) :
    RoomReady (s.endDump x received) := by
  obtain ⟨hcur, -, hn, -, hcar, -⟩ := h.lot_seat hf (by simp [hx])
  let f : LineRecord → LineRecord := fun k => if k.state = .running then k.released.freed s.clock else k.released
  have hf₁ : (f s.line).current = none := by
    show (if s.line.state = .running then _ else _ : LineRecord).current = none
    split <;> rfl
  have hf₂ : (f s.line).lotCounter = s.line.lotCounter := by
    show (if s.line.state = .running then _ else _ : LineRecord).lotCounter = _
    split <;> rfl
  have hlots := h.lots.finishLot hcur received hf₁ hf₂
  have hkeep : ((s.modLine f).finishLot x received).line = f s.line ∧ ∃ l links,
      (s.modLine f).finishLot x received = { s.modLine f with lots := l, links := links } := by
    unfold State.finishLot State.raiseShort
    split
    · exact ⟨rfl, _, _, rfl⟩
    · split <;> exact ⟨rfl, _, _, rfl⟩
  obtain ⟨-, l, links, he⟩ := hkeep
  unfold State.endDump
  refine RoomReady.lineLook ?_
  change RoomReady (State.queueWash { (s.modLine f).finishLot x received with window := _ } x.vat)
  refine h.queueWash hn ?_ (hlots.congr rfl rfl) ?_ ?_ ?_
  all_goals rw [he]
  · exact .leaveLine hcur hf₁ rfl rfl rfl rfl rfl rfl rfl rfl
  · rfl
  · rfl
  · exact hcar

theorem State.findLot_removeLot_ne {k : Nat} (h : k ≠ n) : (s.removeLot n).findLot k = s.findLot k := by
  unfold State.findLot State.removeLot withoutLot
  cases hp : pick? (fun x : Lot => decide (x.number = n)) s.lots with
  | none => rw [dropOne_of_none (pick?_eq_none.mp hp)]
  | some q =>
    obtain ⟨x, rest⟩ := q
    obtain ⟨before, behind, hl, rfl, hx, hb⟩ := pick?_eq_some.mp hp
    have hxn : x.number = n := by simpa using hx
    simp only [hl]
    rw [dropOne_append (p := fun x : Lot => decide (x.number = n)) hx hb, List.find?_append, List.find?_append,
      List.find?_cons_of_neg (by simp [hxn, Ne.symm h])]

/-- A PRESSING lot leaves the list: the line's lot stays as it is. -/
theorem RoomReady.closeLot (h : RoomReady s) (hf : s.findLot n = some x) (hx : x.state = .pressing) :
    RoomReady (s.removeLot x.number) := by
  obtain ⟨-, hxn⟩ := State.findLot_eq_some hf
  have hne : ∀ k, s.line.current = some k → k ≠ x.number := by
    rintro k hk rfl
    obtain ⟨y, hy, ho, hr⟩ := h.lots.list.listed _ hk
    rw [hxn, hf] at hy
    cases hy
    by_cases e : s.line.state = .ordered
    · rw [ho e] at hx
      cases hx
    · rw [hr e] at hx
      cases hx
  have hcur : (s.removeLot x.number).currentLot = s.currentLot := by
    unfold State.currentLot
    change s.line.current.bind _ = _
    cases hk : s.line.current with
    | none => rfl
    | some k => exact State.findLot_removeLot_ne (hne k hk)
  have hk : Keeps s (s.removeLot x.number) := by
    refine ⟨fun v => ?_, fun _ => ⟨rfl, rfl, rfl⟩, fun _ => rfl, fun _ _ _ => .rfl, fun _ _ => ⟨rfl, .rfl⟩⟩
    funext p
    cases p
    case line => simp only [State.named, hcur]
    all_goals rfl
  have hsub : (s.removeLot x.number).lots.Sublist s.lots := withoutLot_sublist _ _
  obtain ⟨⟨hnum, hcurrent, hlisted⟩, hroom, hcount, hfree⟩ := h.lots
  refine h.of_line (hk.claims h.claims) ⟨⟨(hsub.map _).nodup hnum, fun y hy => hcurrent y (hsub.subset hy), fun k hk => ?_⟩,
    hsub.length_le.trans hroom, hcount, hfree⟩ rfl rfl
  rw [State.findLot_removeLot_ne (hne k hk)]
  exact hlisted k hk

theorem RoomReady.applyDurationExpiry (h : RoomReady s) (hst : s.line.state = .running) :
    RoomReady s.applyDurationExpiry :=
  RoomReady.raiseBoth (h.modLine rfl (by simp [hst]) (fun e => by cases e) rfl) _ _ _

end Sys2Proof.Machine
end

section
/-! PROOFS. The requests of the Console link, the links' events and the resets keep the claims, and so does every step. -/

namespace Sys2Proof.Machine

variable {s t u m : State} {v w : Vat} {o o' : Option Place} {x : Lot} {n : Nat} {b : Bank}

/-! ### SET, MAP SLOT -/

theorem RoomReady.marginSet (h : RoomReady s) : RoomReady s.marginSet := by
  unfold State.marginSet
  split
  · exact h.moveAllUrgent.cutLook
  · exact h

theorem RoomReady.becomeAbsent (h : RoomReady s) (l : Link) (cause : AbsentCause) : RoomReady (s.becomeAbsent l cause) := by
  have hr := (h.modLink l fun u => { u with presence := none }).raise .console (.stationAbsent l cause)
  unfold State.becomeAbsent
  split
  · cases l with
    | fill => exact hr.parkLooks _
    | cut => exact hr.withdrawForAbsence.cutLook
    | press => exact hr
    | console => exact hr
  · exact h

theorem RoomReady.presenceSet (h : RoomReady s) : RoomReady s.presenceSet :=
  State.forEachFreely_keeps RoomReady s _ _ h (fun _ => h.congr rfl rfl rfl rfl rfl rfl rfl rfl rfl rfl)
    fun l _ _ ht => ht.becomeAbsent l _

theorem RoomReady.actOnSet (h : RoomReady s) (i : Item) : RoomReady (s.actOnSet i) := by
  cases i
  case urgencyMargin => exact h.marginSet
  case reachLow => exact h.cutLook
  case reachHigh => exact h.cutLook
  case pathOpenLimit => exact h.pathLimitSet
  case rinseInterval => exact h.rinseIntervalSet
  case parkDelay => exact h.parkDelaySet
  case presenceTimeout => exact h.presenceSet
  all_goals exact h

/-- The store holds a new value: the zones move only while no bank names a vat (R49). -/
theorem RoomReady.put (h : RoomReady s) {i : Item} (hi : s.busy i = false) (v : Nat) :
    RoomReady { s with settings := s.settings.put i v } := by
  cases i
  case zoneEnd b =>
    have hempty : ∀ b, (s.bank b).list = [] ∧ (s.bank b).current = none := fun b => by
      simp only [State.busy, Bool.not_eq_false', List.all_eq_true] at hi
      have := hi b (mem_allBanks b)
      simp only [BankRecord.idle, Bool.and_eq_true, List.isEmpty_iff, Option.isNone_iff_eq_none] at this
      exact ⟨this.1.1.2, this.1.2⟩
    refine h.of_banks (fun w => ?_) rfl rfl rfl h.banks
    obtain ⟨o, hn, hs⟩ := State.claimed_iff.mp (h.claims w)
    refine State.claimed_iff.mpr ⟨o, hn, ?_⟩
    rcases o with _ | ⟨b, k⟩ | ⟨b, k⟩ | _ | c | _ | _
    case some.bankList =>
      have := congrFun hn (.bankList b k)
      simp [State.named, onlyAt, (hempty b).1] at this
    case some.bankTransfer =>
      have := congrFun hn (.bankTransfer b k)
      simp [State.named, onlyAt, (hempty b).2] at this
    all_goals exact hs
  all_goals exact h.congr rfl rfl rfl rfl rfl rfl rfl rfl rfl rfl

theorem RoomReady.setItem (h : RoomReady s) {i : Item} (hi : s.busy i = false) (v : Nat) : RoomReady (s.setItem i v) := by
  unfold State.setItem
  split
  · exact h
  · exact (h.put hi v).actOnSet i

theorem RoomReady.remap (h : RoomReady s) (slot : Slot) (y : Option Vat) : RoomReady (s.remap slot y) := by
  have hw : ∀ {m : State}, RoomReady m → ∀ (y : Option Vat) (n : Option Slot), RoomReady (m.writeSlot y n) :=
    fun hm y n => by
      cases y with
      | none => exact hm
      | some v => exact hm.modVat v (f := fun r => { r with slot := n }) rfl rfl rfl
  exact (hw (hw h _ none) y _).congr rfl rfl rfl rfl rfl rfl rfl rfl rfl rfl

/-! ### The links -/

theorem RoomReady.heard (h : RoomReady s) (l : Link) : RoomReady (s.heard l) := by
  have hr := (h.modLink l fun u => { u with presence := some 0 }).raise .console (.stationPresent l)
  unfold State.heard State.becomePresent
  split
  · exact h
  · split
    · exact h.modLink l _
    · cases l with
      | fill => exact hr.bankLooks _ _
      | cut => exact hr.cutLook
      | press => exact hr.lineLook
      | console => exact hr

theorem RoomReady.closeFrame (h : RoomReady s) (l : Link) (f : OpenFrame) : RoomReady (s.closeFrame l f) := by
  unfold State.closeFrame
  split
  · exact h.modLink l _
  · exact ((h.modLink l _).heard l).modLink l _

theorem RoomReady.receive (h : RoomReady s) (l : Link) (c : Character) : RoomReady (s.receive l c) := by
  unfold State.receive
  split
  · exact h
  · split
    · exact h.modLink l _
    · exact h
  · exact h.modLink l _
  · split
    · split
      · exact h.closeFrame l _
      · exact h.modLink l _
    · exact h.modLink l _

theorem RoomReady.lookAtRoom (h : RoomReady s) (l : Link) : RoomReady (s.lookAtRoom l) := by
  cases l with
  | fill => exact h
  | cut => exact h.cutLook
  | press => exact h.lineLook
  | console => exact h

/-! ### The resets and the tick -/

/-- A state in which every list is empty, nothing is held and every vat is VACANT. -/
theorem RoomReady.of_empty (hv : ∀ v, (s.vat v).stage = .vacant ∧ (s.vat v).carriage = none ∧ (s.vat v).lot = none)
    (hb : ∀ b, (s.bank b).list = [] ∧ (s.bank b).current = none) (hu : s.urgent = []) (ho : s.openList = [])
    (hc : s.carriages = State.reset.carriages) (hll : s.lateList = []) (hr : s.routine = []) (hlots : s.lots = [])
    (hline : s.line = .reset) : RoomReady s := by
  have hcar : ∀ c, (s.carriage c).vat = none := fun c => by
    have : s.carriage c = State.reset.carriage c := by simp only [State.carriage, hc]
    rw [this, State.reset_carriage]
    rfl
  have hcur : s.currentLot = none := by
    rw [State.currentLot, hline]
    rfl
  refine ⟨fun v => State.claimed_iff.mpr ⟨none, funext fun p => ?_, ?_⟩, ⟨⟨?_, ?_, ?_⟩, ?_, ?_, ?_⟩, fun c _ => hcar c,
    fun b => .of_none (hb b).2⟩
  · cases p with
    | bankList b kind => simp [State.named, (hb b).1]
    | bankTransfer b kind => simp [State.named, (hb b).2]
    | cutList => simp [State.named, hu, ho]
    | carriage c => simp [State.named, hcar]
    | dumpList => simp [State.named, hll, hr]
    | line => simp [State.named, hcur]
  · obtain ⟨h₁, h₂, h₃⟩ := hv v
    exact ⟨by simp [h₁], h₂, h₃⟩
  · simp [hlots]
  · simp [hlots]
  · intro n hn
    rw [hline] at hn
    cases hn
  · simp [hlots]
  · rw [hline]
    decide
  · intro _
    rw [hline]
    rfl

theorem startedBank_empty (x : Settings) (p : Bool) : (startedBank x p).list = [] ∧ (startedBank x p).current = none := by
  unfold startedBank
  split <;> exact ⟨rfl, rfl⟩

theorem RoomReady.fullReset (s : State) (straps : Straps) (proved : Vector Bool 4) :
    RoomReady (s.fullReset straps proved) := by
  refine .of_empty (fun v => ?_) (fun b => ?_) rfl rfl rfl rfl rfl rfl rfl
  · have : (s.fullReset straps proved).vat v = VatRecord.reset v := State.reset_vat v
    rw [this]
    exact ⟨rfl, rfl, rfl⟩
  · have : (s.fullReset straps proved).bank b = startedBank Settings.default proved[b] := by
      simp [State.fullReset, State.bank]
    rw [this]
    exact startedBank_empty _ _

theorem RoomReady.restartNow (s : State) : RoomReady s.restartNow := by
  refine .of_empty (fun v => ?_) (fun b => ?_) rfl rfl rfl rfl rfl rfl rfl
  · rw [State.restartNow_vat, State.reset_vat]
    exact ⟨rfl, rfl, rfl⟩
  · rw [State.restartNow_bank]
    exact startedBank_empty _ _

theorem RoomReady.breakLine (h : RoomReady s) (l : Link) : RoomReady (s.breakLine l) := by
  unfold State.breakLine
  dsimp only
  split
  · exact .restartNow _
  · exact (h.modLink l _).becomeAbsent l _

theorem RoomReady.tick (h : RoomReady s) : RoomReady s.tick := by
  have hbank : ∀ b, s.tick.bank b = (s.bank b).tick (s.rinseCounts b) := fun b => by simp [State.tick, State.bank]
  have hcar : ∀ c, s.tick.carriage c = (s.carriage c).tick := fun c => by simp [State.tick, State.carriage]
  have hk : Keeps s s.tick := by
    refine ⟨fun v => funext fun p => ?_, fun _ => ⟨rfl, rfl, rfl⟩, fun _ => rfl, fun c _ _ => ?_,
      fun _ _ => ⟨rfl, .rfl⟩⟩
    · cases p
      case bankList => simp only [State.named, hbank, BankRecord.tick]
      case bankTransfer => simp only [State.named, hbank, BankRecord.tick]
      case carriage => simp only [State.named, hcar, CarriageRecord.tick]
      all_goals rfl
    · rw [hcar]
      rfl
  obtain ⟨⟨hnum, hcur, hlist⟩, hroom, hcount, hfree⟩ := h.lots
  refine ⟨hk.claims h.claims, ⟨⟨hnum, hcur, hlist⟩, hroom, hcount, hfree⟩, fun c => ?_, fun b => ?_⟩
  · rw [hcar]
    exact h.carriages c
  · rw [hbank]
    exact h.banks b

/-! ### The effects of the requests -/

theorem RoomReady.effect (h : RoomReady s) (hv : VatsHold s) (he : Effect s t) : RoomReady t := by
  have hopen : ∀ v, (s.vat v).stepPending = .cutOpen → (s.vat v).stage = .setting := fun v hp =>
    ((hv v).cutOpenPending hp).1
  have hheal : ∀ v, (s.vat v).stepPending = .healMin → (s.vat v).stage = .working := fun v hp =>
    ((hv v).healMinPending hp).1
  cases he with
  | nothing => exact h
  | marksOff l => exact h.modLink l _
  | orderFill o v mapped service free vacant => exact h.orderFill vacant o _
  | cancelQueued v queued => exact h.cancelQueued queued
  | cancelListed v filling listed => exact h.cancelListed filling listed
  | cancelCurrent c filling current => exact h.cancelCurrent filling current
  | resumeFill c filling up current => exact h.resumeFill current
  | setVat v charged => exact h.unseat (by simp [charged]) (by simp [VatRecord.setAt]) rfl rfl
  | startCut c ordered => exact h.startCut ordered
  | endCut c => exact (h.endCut c).cutLook.healMinAfterCut _
  | endCutLate c => exact (h.endCut c).healMinAfterCut _
  | refuseCut c => exact (h.withdrawOrder c _).cutLook
  | block c => exact h.modCarriage c rfl (fun _ => .rfl) (h.carriages c)
  | blockOrdered c => exact ((h.modCarriage c rfl (fun _ => .rfl) (h.carriages c)).withdrawOrder c _).cutLook
  | unblock c => exact (h.modCarriage c rfl (fun _ => .rfl) (h.carriages c)).cutLook
  | pause => exact h.congr rfl rfl rfl rfl rfl rfl rfl rfl rfl rfl
  | resume => exact RoomReady.cutLook (h.congr rfl rfl rfl rfl rfl rfl rfl rfl rfl rfl)
  | startDump n x found lot => exact h.startDump found lot
  | endDump n x received found lot => exact h.endDump found lot received
  | refuseDump n x found lot line => exact (h.withdrawDump (h.lot_seat found (by simp [lot])).1 line _).lineLook
  | closeLot n x found lot => exact (h.closeLot found lot).lineLook
  | mouldsLow => exact h.modLine rfl .rfl h.lots.free rfl
  | mouldsReady => exact (h.modLine rfl .rfl h.lots.free rfl).lineLook
  | hold v => exact (h.modVat v rfl rfl rfl).parkLooks _
  | release v => exact ((h.modVat v rfl rfl rfl).bankLooks _ _).cutLook.lineLook
  | stepModeOn v => exact h.modVat v rfl rfl rfl
  | stepModeOff v =>
    refine (h.modVat v rfl rfl rfl).advance ?_ ?_
    · rw [State.modVat_vat_same]
      exact hopen v
    · rw [State.modVat_vat_same]
      exact hheal v
  | step v => exact h.advance (hopen v) (hheal v)
  | dumpEarly v working => exact ((h.modVat v rfl rfl rfl).queueDump (by simp [working]) _ _).lineLook
  | releaseOverset v overset =>
    exact ((h.modVat v rfl rfl rfl).enterCutWindow (.inr (by rw [State.modVat_vat_same]; exact overset))).cutLook
  | discard v discardable => exact h.discard discardable
  | abandon n x found line current lot => exact h.abandon found lot
  | freezeBanks on =>
    have hf : RoomReady { s with frozen := { s.frozen with banks := on } } :=
      h.congr rfl rfl rfl rfl rfl rfl rfl rfl rfl rfl
    unfold State.freezeBanks
    dsimp only
    split
    · exact hf.bankLooks _ _
    · exact hf
  | freezeCarriages on =>
    have hf : RoomReady { s with frozen := { s.frozen with carriages := on } } :=
      h.congr rfl rfl rfl rfl rfl rfl rfl rfl rfl rfl
    unfold State.freezeCarriages
    dsimp only
    split
    · exact hf.cutLook
    · exact hf
  | freezeLine on =>
    have hf : RoomReady { s with frozen := { s.frozen with line := on } } :=
      h.congr rfl rfl rfl rfl rfl rfl rfl rfl rfl rfl
    unfold State.freezeLine
    dsimp only
    split
    · exact hf.lineLook
    · exact hf
  | clearBank b faulted => exact h.enterPriming (h.idle (by rw [faulted]; decide) (by rw [faulted]; decide))
  | clearCarriage c faulted empty =>
    exact (h.modCarriage c rfl (fun e => by rw [empty] at e; cases e) fun _ => empty).cutLook
  | clearLine faulted empty =>
    refine (h.modLine rfl ?_ (fun _ => empty) rfl).lineLook
    simp [faulted, LineRecord.freed]
  | setItem i v allowed idle => exact h.setItem idle v
  | mapSlot slot v => exact h.remap slot _
  | unmapSlot slot => exact h.remap slot _
  | serviceIn v => exact h.modVat v rfl rfl rfl
  | serviceOut v => exact h.modVat v rfl rfl rfl
  | declare d v mapped service vacant target => exact h.declareVat vacant target
  | restart => exact h.congr rfl rfl rfl rfl rfl rfl rfl rfl rfl rfl

/-! ### Every step -/

/-- An event that comes about only when it is due. -/
theorem RoomReady.of_due {c : Bool} (hs : RoomReady s) (h : c = true → RoomReady u)
    (ht : Host.Outcome.next (φ := Fault) (ρ := Refusal) (if c = true then u else s) = .next t) : RoomReady t := by
  cases ht
  split
  · rename_i hc
    exact h hc
  · exact hs

/-- An event that comes about unless something forbids it. -/
theorem RoomReady.of_not {c : Prop} [Decidable c] (hs : RoomReady s) (h : RoomReady u)
    (ht : Host.Outcome.next (φ := Fault) (ρ := Refusal) (if c then s else u) = .next t) : RoomReady t := by
  cases ht
  split
  · exact hs
  · exact h

theorem isSome_of_due {x : Option Timer} (h : due x = true) : x.isSome := by
  cases x with
  | none => cases h
  | some _ => rfl

/-- A bank that drains, flushes, rinses or waits to park has no transfer. -/
theorem BankRecord.Sound.current_of_timer {k : BankRecord} (h : k.Sound)
    (hk : k.drain.isSome ∨ k.flush.isSome ∨ k.rinse.isSome ∨ k.park.isSome) : k.current = none := by
  have hst : k.state ≠ .opening ∧ k.state ≠ .opened := by
    rcases hk with e | e | e | e
    · rw [(h.drain.mp e).1]
      decide
    · rcases h.flush.mp e with e | e
      · rw [h.startPhase.mp (by rw [e]; rfl)]
        decide
      · rw [e]
        decide
    · rw [h.rinse.mp e]
      decide
    · rw [h.park e]
      decide
  cases hc : k.current with
  | none => rfl
  | some c => rcases h.idle (by rw [hc]; rfl) with e | e <;> simp [e] at hst

theorem RoomReady.exec {i : Instr} (hs : RoomReady s) (hb : BanksHold s) (hv : VatsHold s) (h : exec i s = .next t) :
    RoomReady t := by
  induction i using Instr.cases_request with
  | request l edit r =>
    rw [exec_ofRequest] at h
    cases h
    rcases State.takeRequest_effect r l edit s with e | ⟨f, x, d, e⟩
    · rwa [e]
    · exact RoomReady.effect (s := s.answered l edit f x d)
        (hs.congr rfl rfl rfl rfl rfl rfl rfl rfl rfl rfl) hv e
  | powerOnReset resetn rate1 rate0 proved =>
    cases h
    exact (RoomReady.fullReset s ⟨rate1, rate0⟩ proved).congr rfl rfl rfl rfl rfl rfl rfl rfl rfl rfl
  | resetnAsserted => exact hs.of_not (u := s.holdReset) (hs.congr rfl rfl rfl rfl rfl rfl rfl rfl rfl rfl) h
  | resetRelease =>
    cases h
    split
    · exact .fullReset s _ _
    · exact hs
  | frameClosed l =>
    cases h
    split
    · split
      · exact hs
      · exact hs.closeFrame l _
    · exact hs
  | frameAbandoned l =>
    cases h
    split
    · split
      · exact hs
      · exact hs.modLink l _
    · exact hs
  | lineBreak l => exact hs.of_not (hs.breakLine l) h
  | presenceTimeout l => exact hs.of_due (fun _ => hs.becomeAbsent l _) h
  | frameSendStart l =>
    cases h
    split
    · split
      · exact hs
      · rename_i u _ _
        exact RoomReady.lookAtRoom (s := s.setLink l u) (hs.congr rfl rfl rfl rfl rfl rfl rfl rfl rfl rfl) l
    · exact hs
  | frameSent l =>
    cases h
    split_ifs
    · exact hs
    · exact .restartNow s
    · exact hs.modLink l _
  | cutOpenReached v =>
    refine hs.of_due (fun hd => hs.applyCutOpen ?_) h
    simp only [State.cutOpenDue, Bool.and_eq_true, decide_eq_true_eq] at hd
    exact hd.2.1.1
  | urgencyMoment v => exact hs.of_due (fun _ => hs.applyUrgency v) h
  | cutCloseReached v =>
    refine hs.of_due (fun hd => hs.applyCutClose ?_) h
    simp only [State.cutCloseDue, Bool.and_eq_true, decide_eq_true_eq] at hd
    exact hd.2.1
  | healMinReached v =>
    refine hs.of_due (fun hd => hs.applyHealMin ?_) h
    simp only [State.healMinDue, Bool.and_eq_true, decide_eq_true_eq] at hd
    exact hd.2.1.1
  | healMaxReached v => exact hs.of_due (fun _ => hs.applyHealMax v) h
  | provedRise b =>
    cases h
    split
    · exact hs
    · have hp : RoomReady (s.seeProved b true) := hs.congr rfl rfl rfl rfl rfl rfl rfl rfl rfl rfl
      split
      · exact hp
      · exact hp.applyProvedRise b
  | provedFall b =>
    cases h
    split
    · exact hs
    · have hp : RoomReady (s.seeProved b false) := hs.congr rfl rfl rfl rfl rfl rfl rfl rfl rfl rfl
      split
      · exact hp
      · exact hp.applyProvedFall b
  | flowPulse b => exact hs.of_not (hs.applyFlow b) h
  | travelTimerExpiry b => exact hs.of_due (fun _ => hs.faultBank b _) h
  | drainTimerExpiry b =>
    refine hs.of_due (fun hd => hs.endDrain ((hb b).current_of_timer (.inl (isSome_of_due ?_)))) h
    exact (Bool.and_eq_true_iff.mp hd).2
  | pathOpenLimit b => exact hs.of_due (fun _ => hs.expirePath b) h
  | noFlowTimerExpiry b => exact hs.of_due (fun _ => hs.applyNoFlow b) h
  | flushTimerExpiry b =>
    refine hs.of_due (fun hd => hs.applyFlushExpiry ((hb b).current_of_timer (.inr (.inl (isSome_of_due ?_))))) h
    exact (Bool.and_eq_true_iff.mp hd).2
  | rinseCounterMatch b => exact hs.of_due (fun _ => hs.applyRinseMatch b) h
  | rinseTimerExpiry b =>
    refine hs.of_due (fun hd => hs.enterReady ((hb b).current_of_timer (.inr (.inr (.inl (isSome_of_due ?_)))))) h
    exact (Bool.and_eq_true_iff.mp hd).2
  | parkTimerExpiry b =>
    refine hs.of_due (fun hd => hs.parkBank ((hb b).current_of_timer (.inr (.inr (.inr ?_))))) h
    have hp := (Bool.and_eq_true_iff.mp hd).2
    unfold State.parkDue at hp
    split at hp
    · rename_i e
      rw [e]
      rfl
    · cases hp
  | parkDrainEnd b => exact hs.of_due (fun _ => hs.modBank b rfl rfl (hs.banks b)) h
  | cutStartTimerExpiry c =>
    refine hs.of_due (fun hd => hs.applyCutStartExpiry ?_) h
    simp only [State.cutStartDue, Bool.and_eq_true, decide_eq_true_eq] at hd
    exact hd.2.1
  | sliceTimerExpiry c =>
    refine hs.of_due (fun hd => hs.applySliceExpiry ?_) h
    simp only [State.sliceDue, Bool.and_eq_true, decide_eq_true_eq] at hd
    exact hd.2.1
  | dumpStartTimerExpiry =>
    refine hs.of_due (fun hd => hs.applyDumpStartExpiry ?_) h
    simp only [State.dumpStartDue, Bool.and_eq_true, decide_eq_true_eq] at hd
    exact hd.2.1
  | dumpDurationExpiry =>
    refine hs.of_due (fun hd => hs.applyDurationExpiry ?_) h
    simp only [State.dumpDurationDue, Bool.and_eq_true, decide_eq_true_eq] at hd
    exact hd.2.1
  | characterReceived l c => exact hs.of_not (hs.receive l c) h
  | lineReturnedToMark l => exact hs.of_not (hs.modLink l _) h

/-- Settles O12: a vat is named by one record at a time, and each operation takes it out of the place that named it before
another record names it. -/
theorem everyStepKeepsClaims : Obligations.EveryStepKeepsClaims := by
  rintro s t ⟨hroom, hvats⟩ hstep
  have hs := hroom.ready
  obtain ⟨-, -, -, hbanks, -⟩ := hroom
  have ht : RoomReady t := by
    rcases step_cases hstep with ⟨i, p, d, h⟩ | ⟨d, rfl⟩ | rfl
    · exact RoomReady.exec (s := { s with pending := p, drawn := d })
        (hs.congr rfl rfl rfl rfl rfl rfl rfl rfl rfl rfl) hbanks hvats h
    · exact RoomReady.tick (hs.congr rfl rfl rfl rfl rfl rfl rfl rfl rfl rfl)
    · exact hs
  exact ⟨ht.claims, ht.lots.list, ht.cancelsHold⟩

end Sys2Proof.Machine
end

section
/-! PROOFS. The front of the queue (O1), the state after a reset (O14), and the deadlines of the vat table (O52, O53). -/

namespace Sys2Proof.Machine

variable {s : State} {v : Vat} {n x : Nat}

/-- Settles O1: the step reads the queue, and nothing else, to choose its command. -/
theorem stepTakesFrontCommand : Obligations.StepTakesFrontCommand := by
  intro c rest s h
  unfold step
  rw [h]

/-! ### The state after a reset -/

theorem BankRecord.Sound.reset (limit : Nat) : (BankRecord.reset limit).Sound := by
  constructor <;> simp [BankRecord.reset, BankRecord.onPath]

theorem CarriageRecord.Sound.reset : CarriageRecord.reset.Sound := by
  constructor <;> simp [CarriageRecord.reset]

theorem LineRecord.Sound.reset : LineRecord.reset.Sound := by
  constructor <;> simp [LineRecord.reset]

theorem RoomReady.reset : RoomReady State.reset := by
  refine .of_empty (fun v => ?_) (fun b => ?_) rfl rfl rfl rfl rfl rfl rfl
  · rw [State.reset_vat]
    exact ⟨rfl, rfl, rfl⟩
  · rw [State.reset_bank]
    exact ⟨rfl, rfl⟩

theorem RoomHolds.reset : RoomHolds State.reset := by
  have hr := RoomReady.reset
  refine ⟨hr.claims, hr.lots.list, ⟨hr.lots.room, by decide⟩, fun b => ?_, ⟨fun c => ?_, by decide⟩,
    ⟨List.nodup_nil, fun _ h => (List.not_mem_nil h).elim, fun c c' _ t h => ?_⟩, .reset, hr.cancelsHold⟩
  · rw [State.reset_bank]
    exact .reset _
  · rw [State.reset_carriage]
    exact .reset
  · rw [State.reset_carriage] at h
    cases h

/-- Settles O14: after a reset the store has its defaults, vat `n` stands in slot `n`, and nothing names a vat. -/
theorem startUpStateHolds : Obligations.StartUpStateHolds := by
  refine ⟨(settingsHold_iff _).mpr .default, .reset, fun l => ?_, .reset, .of_reset rfl⟩
  rw [State.reset_link]
  exact ⟨Nat.zero_le _, Nat.zero_le _⟩

/-! ### Cut-open and the urgency moment -/

theorem State.reached_some : s.reached (some x) = decide (x ≤ s.clock) := rfl

theorem exec_cutOpenReached (hr : s.inReset = false) (hs : (s.vat v).stage = .setting)
    (hp : (s.vat v).stepPending = .nothing) (ho : (s.vat v).cutOpen = some x) (hx : x ≤ s.clock) :
    exec (.cutOpenReached v) s = .next (s.applyCutOpen v) := by
  have hd : (!s.inReset && s.cutOpenDue v) = true := by simp [hr, State.cutOpenDue, hs, hp, ho, State.reached_some, hx]
  exact congrArg _ (if_pos hd)

theorem exec_cutOpenReached_idle (h : (s.vat v).stage ≠ .setting) : exec (.cutOpenReached v) s = .next s := by
  have hd : ¬ (!s.inReset && s.cutOpenDue v) = true := by simp [State.cutOpenDue, h]
  exact congrArg _ (if_neg hd)

/-- The first OPEN entry of a vat moves when its urgency moment is reached (R32). -/
theorem State.moveUrgent_eq {before behind : List CutEntry} {e : CutEntry} (hl : s.openList = before ++ e :: behind)
    (hb : ∀ y ∈ before, y.vat ≠ v) (hv : e.vat = v) (hu : s.urgencyReached e = true) :
    s.moveUrgent v = some { s with openList := before ++ behind, urgent := s.urgent ++ [e] } := by
  have hp : pick? (fun e => decide (e.vat = v) && s.urgencyReached e) s.openList = some (e, before ++ behind) :=
    pick?_eq_some.mpr ⟨before, behind, hl, rfl, by simp [hv, hu], fun y hy => by simp [hb y hy]⟩
  rw [State.moveUrgent, hp]

theorem exec_urgencyMoment {before behind : List CutEntry} {e : CutEntry} (hr : s.inReset = false)
    (hl : s.openList = before ++ e :: behind) (hb : ∀ y ∈ before, y.vat ≠ v) (hv : e.vat = v)
    (hu : s.urgencyReached e = true) : exec (.urgencyMoment v) s =
      .next (State.cutLook { s with openList := before ++ behind, urgent := s.urgent ++ [e] }) := by
  have hd : (!s.inReset && s.urgencyDue v) = true := by simp [hr, State.urgencyDue, hl, hv, hu]
  refine congrArg _ ((if_pos hd).trans ?_)
  rw [State.applyUrgency, State.moveUrgent_eq hl hb hv hu]

/-! ### Cut-close -/

theorem exec_cutCloseReached (hr : s.inReset = false) (hs : (s.vat v).stage = .setting ∨ (s.vat v).stage = .cutWindow)
    (hc : (s.vat v).cutClose = some x) (hx : x ≤ s.clock) :
    exec (.cutCloseReached v) s = .next (s.applyCutClose v) := by
  have hd : (!s.inReset && s.cutCloseDue v) = true := by simp [hr, State.cutCloseDue, hs, hc, State.reached_some, hx]
  exact congrArg _ (if_pos hd)

theorem exec_cutCloseReached_idle (h₁ : (s.vat v).stage ≠ .setting) (h₂ : (s.vat v).stage ≠ .cutWindow) :
    exec (.cutCloseReached v) s = .next s := by
  have hd : ¬ (!s.inReset && s.cutCloseDue v) = true := by simp [State.cutCloseDue, h₁, h₂]
  exact congrArg _ (if_neg hd)

/-- Cut-close of a vat for which no order stands: its entry leaves its list (R33). -/
theorem State.applyCutClose_unordered (h : s.orderedFor v = none) : s.applyCutClose v =
    ((s.leaveCut v).modVat v fun r => { r with stage := .overset, stepPending := .nothing }).raiseBoth .cut .console
      (.vatOverset (s.vat v).slot v (s.vat v).batch (s.vat v).cutClose) := by
  simp only [State.applyCutClose, h, State.becomeOverset, State.raiseOverset, State.modVat_vat_same]
  rfl

/-- An order withdrawn by the cut-close of its vat: the vat becomes OVERSET and the tag is late (R33, R98, R100). -/
def State.withdrawnAtClose (s : State) (c : Carriage) (v : Vat) (tag : Nat) : State :=
  { (s.modCarriage c fun k =>
      { k with state := .free, freeSince := s.clock, vat := none, tag := none, orderedAt := none, start := none }).modVat
        v fun r => { r with stage := .overset, stepPending := .nothing, carriage := none } with
    lateTags := if tag ∈ s.lateTags then s.lateTags else s.lateTags ++ [tag] }.raise .cut
      (.orderWithdrawn c (some tag) (some v) (s.vat v).slot .cutClose)

theorem State.withdrawCut_cutClose {c : Carriage} {tag : Nat} (ht : (s.carriage c).tag = some tag) :
    s.withdrawCut c v .cutClose false = s.withdrawnAtClose c v tag := by
  simp only [State.withdrawCut, if_true, ht, State.becomeOverset, State.modVat_modVat]
  rfl

theorem State.withdrawnAtClose_vat (c : Carriage) (tag : Nat) : (s.withdrawnAtClose c v tag).vat v =
    { s.vat v with stage := .overset, stepPending := .nothing, carriage := none } := by
  rw [State.withdrawnAtClose, State.raise_vat]
  exact State.modVat_vat_same (s.modCarriage c _) v fun r =>
    { r with stage := .overset, stepPending := .nothing, carriage := none }

/-- Cut-close of a vat for which an order stands: the order is withdrawn, and the arbiter looks (R33). -/
theorem State.applyCutClose_ordered {c : Carriage} {tag : Nat} (h : s.orderedFor v = some c)
    (ht : (s.carriage c).tag = some tag) : s.applyCutClose v =
    ((s.withdrawnAtClose c v tag).raiseBoth .cut .console
      (.vatOverset (s.vat v).slot v (s.vat v).batch (s.vat v).cutClose)).cutLook := by
  simp only [State.applyCutClose, h, State.withdrawCut_cutClose ht, State.raiseOverset, State.withdrawnAtClose_vat]

/-- Settles O52: each deadline, when it is due, is applied by its rule, and by the branch that the record selects. -/
theorem cutDeadlines : Obligations.CutDeadlines := by
  intro s v hr
  refine ⟨fun x hs hp ho hx => ⟨fun hm => ?_, fun hm => ?_⟩, exec_cutOpenReached_idle,
    fun before e behind x hl hb hv hc hx => exec_urgencyMoment hr hl hb hv ?_, fun x hc hx => ⟨fun hs => ?_,
    fun c tag hs hcar hord ht => ?_⟩, exec_cutCloseReached_idle⟩
  · rw [exec_cutOpenReached hr hs hp ho hx, State.applyCutOpen, if_neg (by simp [hm])]
    rfl
  · rw [exec_cutOpenReached hr hs hp ho hx, State.applyCutOpen, if_pos hm, State.raiseStepPending,
      State.modVat_vat_same]
  · simp [State.urgencyReached, hc, State.urgentAt, hx]
  · have hnone : s.orderedFor v = none := by
      rcases hs with e | ⟨e, hcar⟩
      · simp [State.orderedFor, e]
      · simp [State.orderedFor, e, hcar]
    rw [exec_cutCloseReached hr (hs.imp_right And.left) hc hx, State.applyCutClose_unordered hnone]
    rfl
  · have hsome : s.orderedFor v = some c := by simp [State.orderedFor, hs, hcar, hord]
    rw [exec_cutCloseReached hr (.inr hs) hc hx, State.applyCutClose_ordered hsome ht]
    rfl

/-! ### Heal-min and heal-max -/

/-- Heal-min of a vat: applied when it is due (R38). -/
theorem exec_healMinReached (hr : s.inReset = false) (v : Vat) :
    exec (.healMinReached v) s = .next (s.healMinAtOnce v) := by
  change Host.Outcome.next (if (!s.inReset && s.healMinDue v) = true then s.applyHealMin v else s) = _
  rw [hr]
  rfl

theorem State.healMinAtOnce_of_due (hs : (s.vat v).stage = .working) (hp : (s.vat v).stepPending = .nothing)
    (hm : (s.vat v).healMin = some x) (hx : x ≤ s.clock) : s.healMinAtOnce v = s.applyHealMin v :=
  if_pos (by simp [State.healMinDue, hs, hp, hm, State.reached_some, hx])

theorem State.healMinAtOnce_idle (h : (s.vat v).stage ≠ .working) : s.healMinAtOnce v = s :=
  if_neg (by simp [State.healMinDue, h])

theorem State.healsTogether_iff : s.healsTogether v = true ↔ (s.vat v).stage = .working ∧
    (s.vat v).stepPending = .nothing ∧ (s.vat v).healMin = some s.clock ∧ (s.vat v).healMax = some s.clock ∧
    (s.vat v).healMaxFirst = false := by simp [State.healsTogether]

/-- A dump entry joins ROUTINE when it is WASTE or its vat's heal-max is not reached (R39). -/
theorem State.belongsLate_of_early {kind : EntryKind}
    (h : kind = .waste ∨ ∀ x, (s.vat v).healMax = some x → s.clock < x) : s.belongsLate v kind = false := by
  unfold State.belongsLate State.reached
  rcases h with rfl | h
  · rfl
  · cases hx : (s.vat v).healMax with
    | none => simp
    | some x => simp [h x hx]

theorem State.belongsLate_of_late (hm : (s.vat v).healMax = some x) (hx : x ≤ s.clock) :
    s.belongsLate v .normal = true := by simp [State.belongsLate, hm, State.reached_some, hx]

theorem State.joinDump_of_early {kind : EntryKind} (h : s.belongsLate v kind = false) (early : Bool) :
    s.joinDump v kind early = { s with routine := s.routine ++ [⟨v, (s.vat v).slot, kind, early, s.clock⟩] } :=
  if_neg (by simp [h])

theorem State.joinDump_of_late {kind : EntryKind} (h : s.belongsLate v kind = true) (early : Bool) :
    s.joinDump v kind early = { s with lateList := s.lateList ++ [⟨v, (s.vat v).slot, kind, early, s.clock⟩] } :=
  if_pos h

/-- The first NORMAL entry of a vat in ROUTINE moves to the LATE tail (R39). -/
theorem State.moveLate_eq {before behind : List DumpEntry} {e : DumpEntry} (hl : s.routine = before ++ e :: behind)
    (hb : ∀ y ∈ before, y.vat ≠ v ∨ y.kind ≠ .normal) (hv : e.vat = v) (hk : e.kind = .normal) :
    s.moveLate v = some { s with routine := before ++ behind, lateList := s.lateList ++ [e] } := by
  have hp : pick? (fun e : DumpEntry => decide (e.vat = v ∧ e.kind = .normal)) s.routine = some (e, before ++ behind) :=
    pick?_eq_some.mpr ⟨before, behind, hl, rfl, by simp [hv, hk], fun y hy => by
      rcases hb y hy with h | h <;> simp [h]⟩
  rw [State.moveLate, hp]

theorem exec_healMaxReached (hr : s.inReset = false) (v : Vat) : exec (.healMaxReached v) s =
    .next (if s.healMaxDue v then s.applyHealMax v else s) := by
  change Host.Outcome.next (if (!s.inReset && s.healMaxDue v) = true then s.applyHealMax v else s) = _
  rw [hr]
  rfl

/-- Heal-min applied out of step mode, by whether heal-max falls due with it (R38, R39). -/
theorem State.applyHealMin_of_running (hm : (s.vat v).stepMode = false) : s.applyHealMin v =
    if s.healsTogether v then (s.queueRoutine v).lineLook else (s.queueDump v .normal false).lineLook :=
  if_neg (by simp [hm])

/-- A heal-min that is due and does not fall together with heal-max queues the vat (R38, R39). -/
theorem exec_healMinReached_queues (hr : s.inReset = false) (hs : (s.vat v).stage = .working)
    (hp : (s.vat v).stepPending = .nothing) (hm : (s.vat v).healMin = some x) (hx : x ≤ s.clock)
    (hstep : (s.vat v).stepMode = false) (hnot : ¬ s.healsTogether v = true) :
    exec (.healMinReached v) s = .next (s.queueDump v .normal false).lineLook := by
  rw [exec_healMinReached hr, State.healMinAtOnce_of_due hs hp hm hx, State.applyHealMin_of_running hstep, if_neg hnot]

/-- Settles O53: heal-min reads whether heal-max is still to come in this second, and heal-max leaves a mark when it comes
first, so that the two orders put the entry in the list R39 gives. -/
theorem healDeadlines : Obligations.HealDeadlines := by
  refine ⟨fun s v hr => ⟨fun x hs hp hm hx => ⟨fun hstep hlater => ?_, fun hstep => ?_⟩, fun hs => ?_,
    fun before e behind x hl hb hv hk hs hm hx => ?_, fun hs hno => ?_,
    fun kind early h => State.joinDump_of_early (State.belongsLate_of_early h) early,
    fun early x hm hx => State.joinDump_of_late (State.belongsLate_of_late hm hx) early⟩,
    fun s v hr hs hp hmin hmax hfirst => ⟨?_, fun hstep => ?_, fun hstep => ?_⟩,
    fun s v hr => exec_healMinReached hr v⟩
  · have hnot : ¬ s.healsTogether v = true := by
      rw [State.healsTogether_iff]
      rintro ⟨-, -, hmin, hmax, hfirst⟩
      rcases hlater with h | h | h
      · rw [hm] at hmin
        cases hmin
        exact absurd h (lt_irrefl _)
      · exact h hmax
      · rw [hfirst] at h
        cases h
    exact exec_healMinReached_queues hr hs hp hm hx hstep hnot
  · rw [exec_healMinReached hr, State.healMinAtOnce_of_due hs hp hm hx, State.applyHealMin, if_pos hstep,
      State.raiseStepPending, State.modVat_vat_same]
  · rw [exec_healMinReached hr, State.healMinAtOnce_idle hs]
  · have hd : s.healMaxDue v = true := by
      simp [State.healMaxDue, hs, hm, State.reached_some, hx, hl, hv, hk]
    have hnot : ¬ s.healsTogether v = true := by
      rw [State.healsTogether_iff, hs]
      simp
    rw [exec_healMaxReached hr, if_pos hd, State.applyHealMax, if_neg hnot, State.moveLate_eq hl hb hv hk]
  · have hnot : ¬ s.healMaxDue v = true := by
      simp only [State.healMaxDue, Bool.or_eq_true, State.healsTogether_iff, Bool.and_eq_true, decide_eq_true_eq]
      rintro (⟨h₁, h₂, h₃, h₄, h₅⟩ | ⟨⟨h, -⟩, -⟩)
      · simp [h₁, h₂, h₃, h₄, h₅] at hno
      · exact hs h
    rw [exec_healMaxReached hr, if_neg hnot]
  · have hboth := State.healsTogether_iff.mpr ⟨hs, hp, hmin, hmax, hfirst⟩
    have hd : s.healMaxDue v = true := by simp [State.healMaxDue, hboth]
    rw [exec_healMaxReached hr, if_pos hd, State.applyHealMax, if_pos hboth]
  · have hboth := State.healsTogether_iff.mpr ⟨hs, hp, hmin, hmax, hfirst⟩
    rw [exec_healMinReached hr, State.healMinAtOnce_of_due hs hp hmin le_rfl, State.applyHealMin_of_running hstep,
      if_pos hboth, State.queueRoutine]
    simp only [State.dumpEntry, State.modVat_vat_same]
    rfl
  · have hnot : ¬ (s.modVat v fun r => { r with healMaxFirst := true }).healsTogether v = true := by
      rw [State.healsTogether_iff, State.modVat_vat_same]
      simp
    have hv := State.modVat_vat_same s v fun r => { r with healMaxFirst := true }
    have hlate : (s.modVat v fun r =>
        { r with healMaxFirst := true, stage := .dumpQueued, stepPending := .nothing }).belongsLate v .normal = true :=
      State.belongsLate_of_late (x := s.clock) (by rw [State.modVat_vat_same]; exact hmax) le_rfl
    refine (exec_healMinReached_queues (s := s.modVat v fun r => { r with healMaxFirst := true }) (x := s.clock) hr
      (by rw [hv]; exact hs) (by rw [hv]; exact hp) (by rw [hv]; exact hmin) le_rfl (by rw [hv]; exact hstep) hnot).trans ?_
    rw [State.queueDump, State.modVat_modVat, State.joinDump_of_late hlate, State.modVat_vat_same]
    rfl

end Sys2Proof.Machine
end

section
/-! PROOFS. The requests that move a vat through its stages: SET (O30), DUMP EARLY (O44), RELEASE OVERSET and DISCARD
(O45). -/

namespace Sys2Proof.Machine

variable {s : State} {l : Link} {edit : Bool} {f : Frame} {slot : Slot} {v : Vat}

/-! ### SET from the Fill station -/

/-- An asked SET whose slot is mapped: only a CHARGED vat is set (R28). -/
theorem exec_setSlot (ha : Asks s l edit .setSlot f) (hs : slotOf? (f.byteAt 0) = some slot)
    (hm : s.slotMap[slot] = some v) : exec (.setSlot l edit) s = .next
      (if (s.vat v).stage ≠ .charged then s.answered l edit f .stage []
       else (s.answered l edit f .done []).modVat v fun r => r.setAt s.clock) :=
  (exec_of_asks ha).trans (congrArg _ (State.onSlot_mapped (s := s.taken l edit) (a := ⟨l, f⟩) _ hs hm))

/-- A request that resolves a slot, for a slot that is not mapped (R6). -/
theorem exec_unmapped {r : Request} (ha : Asks s l edit r f) (hr : resolvesSlot r = true)
    (h : fieldsInRange s.settings r f = true) (hs : slotOf? (f.byteAt 0) = some slot) (hm : s.slotMap[slot] = none) :
    exec (.ofRequest l edit r) s = .next (s.answered l edit f .unmapped []) :=
  (exec_of_asks ha).trans
    (congrArg _ (ownerOf_of_unmapped (s := s.taken l edit) (a := ⟨l, f⟩) hr h hs hm))

/-- The record of a vat set now, its times within the make clock (R2, R28). -/
theorem VatRecord.setAt_eq {r : VatRecord} {x : ClassTimes} {clock : Nat} (hx : r.snapshot = some x)
    (hmax : clock + x.firmMax < Config.clockRange) (hmin : clock + x.firmMin < Config.clockRange) :
    r.setAt clock = { r with stage := .setting, setTime := some clock, cutOpen := some (clock + x.firmMin),
                             cutClose := some (clock + x.firmMax) } := by
  simp [VatRecord.setAt, hx, after_of_lt hmin, after_of_lt hmax]

theorem within_of_slotOf? (hs : slotOf? (f.byteAt 0) = some slot) : within 1 32 (f.byteAt 0) = true := by
  rw [within_slotOf?, hs]
  rfl

/-- Settles O30: the cut window of a vat is fixed from its snapshot at the moment it is set. -/
theorem setFixesCutWindow : Obligations.SetFixesCutWindow := by
  intro s l edit f ha slot hs
  refine ⟨fun hm => exec_unmapped ha rfl (within_of_slotOf? hs) hs hm, fun v hm => ⟨fun hv => ?_, fun x hv hx hmax hmin => ?_⟩⟩
  · rw [exec_setSlot ha hs hm, if_pos hv]
  · rw [exec_setSlot ha hs hm, if_neg (by simp [hv])]
    exact congrArg _ (State.modVat_congr v (VatRecord.setAt_eq hx hmax hmin))

/-! ### DUMP EARLY -/

/-- An asked DUMP EARLY whose slot is mapped: the checks of R40 in their order. -/
theorem exec_dumpEarly (ha : Asks s l edit .dumpEarly f) (hs : slotOf? (f.byteAt 0) = some slot)
    (hm : s.slotMap[slot] = some v) : exec (.dumpEarly l edit) s = .next
      (if (s.vat v).stage ≠ .working then s.answered l edit f .stage []
       else if (s.vat v).stepPending ≠ .nothing then s.answered l edit f .stage []
       else if s.allowanceInUse then s.answered l edit f .allowance []
       else (((s.answered l edit f .done []).modVat v fun r => { r with early := true }).queueDump v .normal
         true).lineLook) :=
  (exec_of_asks ha).trans (congrArg _ (State.onSlot_mapped (s := s.taken l edit) (a := ⟨l, f⟩) _ hs hm))

theorem mem_allVats (v : Vat) : v ∈ allVats := by revert v; decide

/-- Settles O44: the early mark is set and the vat queued only when every check of R40 passes. -/
theorem dumpEarlyQueuesVat : Obligations.DumpEarlyQueuesVat := by
  refine ⟨fun s l edit f slot v ha hs hm => ⟨fun hv => ?_, fun hv hp => ?_, fun hv hp hu => ?_, fun hv hp hu => ?_⟩,
    fun s => ?_⟩
  · rw [exec_dumpEarly ha hs hm, if_pos hv]
  · rw [exec_dumpEarly ha hs hm, if_neg (by simp [hv]), if_pos hp]
  · rw [exec_dumpEarly ha hs hm, if_neg (by simp [hv]), if_neg (by simp [hp]), if_pos hu]
  · rw [exec_dumpEarly ha hs hm, if_neg (by simp [hv]), if_neg (by simp [hp]), if_neg (by simp [hu]), State.queueDump,
      State.modVat_modVat]
  · simp [State.allowanceInUse, mem_allVats]

/-! ### RELEASE OVERSET -/

/-- An asked RELEASE OVERSET whose slot is mapped (R37). -/
theorem exec_releaseOverset (ha : Asks s l edit .releaseOverset f) (hs : slotOf? (f.byteAt 0) = some slot)
    (hm : s.slotMap[slot] = some v) : exec (.releaseOverset l edit) s = .next
      (if (s.vat v).stage ≠ .overset then s.answered l edit f .stage []
       else (((s.answered l edit f .done []).modVat v fun r => { r with cutClose := none }).enterCutWindow v).cutLook) :=
  (exec_of_asks ha).trans (congrArg _ (State.onSlot_mapped (s := s.taken l edit) (a := ⟨l, f⟩) _ hs hm))

/-- A vat with no cut-close that enters the cut window joins URGENT (R29). -/
theorem State.enterCutWindow_released (s : State) (v : Vat) :
    (s.modVat v fun r => { r with cutClose := none }).enterCutWindow v =
      { s.modVat v fun r => { r with stage := .cutWindow, stepPending := .nothing, cutClose := none } with
        urgent := s.urgent ++ [⟨v, (s.vat v).slot, none, s.clock⟩] } := by
  rw [State.enterCutWindow, State.modVat_modVat, State.joinCut_of_urgent ?_, State.cutEntry]
  · simp only [State.modVat_vat_same]
    rfl
  · simp [State.cutListFor]

/-! ### DISCARD -/

/-- An asked DISCARD whose slot is mapped (R45). -/
theorem exec_discard (ha : Asks s l edit .discard f) (hs : slotOf? (f.byteAt 0) = some slot)
    (hm : s.slotMap[slot] = some v) : exec (.discard l edit) s = .next
      (if s.discardable v then (s.answered l edit f .done []).discard v else s.answered l edit f .stage []) :=
  (exec_of_asks ha).trans (congrArg _ (State.onSlot_mapped (s := s.taken l edit) (a := ⟨l, f⟩) _ hs hm))

/-- A vat that is discarded from a state in which it has left its seat: its WASTE entry joins ROUTINE (R39, R46). -/
theorem State.queueWaste (m : State) (v : Vat) :
    ((m.modVat v fun r => { r with waste := true }).queueDump v .waste false) =
      { m.modVat v fun r => { r with stage := .dumpQueued, stepPending := .nothing, waste := true } with
        routine := m.routine ++ [⟨v, (m.vat v).slot, .waste, false, m.clock⟩] } := by
  rw [State.queueDump, State.modVat_modVat, State.joinDump_of_early (State.belongsLate_of_early (.inl rfl)),
    State.modVat_vat_same]
  rfl

theorem State.releaseCarriageOf_cutting {c : Carriage} (hs : (s.vat v).stage = .cutting)
    (hc : (s.vat v).carriage = some c) : s.releaseCarriageOf v =
      (s.modCarriage c CarriageRecord.released).modVat v fun r => { r with carriage := none } := by
  simp [State.releaseCarriageOf, hs, hc]

/-- Settles O45: an OVERSET vat goes back to the cut window without a cut-close, or it, like every vat that R45 lists, is
taken out of the list or the carriage that names it and queued as WASTE. -/
theorem oversetVatsAreReleasedOrDiscarded : Obligations.OversetVatsAreReleasedOrDiscarded := by
  refine ⟨fun s l edit f slot ha hs => ⟨fun hm => exec_unmapped ha rfl (within_of_slotOf? hs) hs hm,
      fun v hm => ⟨fun hv => ?_, fun hv => ?_⟩⟩,
    fun s l edit f slot ha hs => ⟨fun hm => exec_unmapped ha rfl (within_of_slotOf? hs) hs hm, fun v hm => ⟨fun hv => ?_,
      fun c hv hc hst => ?_, fun hv => ?_⟩⟩⟩
  · rw [exec_releaseOverset ha hs hm, if_pos hv]
  · rw [exec_releaseOverset ha hs hm, if_neg (by simp [hv]), State.enterCutWindow_released]
    rfl
  · have hd : s.discardable v = true := by
      rcases hv with e | e | e | e | ⟨e, hc⟩ <;> simp [State.discardable, e]
      simp [hc]
    have hne : (((s.answered l edit f .done []).leaveCut v).vat v).stage ≠ .cutting := by
      change (s.vat v).stage ≠ _
      rcases hv with e | e | e | e | ⟨e, -⟩ <;> simp [e]
    rw [exec_discard ha hs hm, if_pos hd, State.discard, State.releaseCarriageOf_of_not_cutting hne, State.queueWaste]
    rfl
  · have hd : s.discardable v = true := by simp [State.discardable, hv, hc, hst]
    rw [exec_discard ha hs hm, if_pos hd, State.discard,
      State.releaseCarriageOf_cutting (s := (s.answered l edit f .done []).leaveCut v) hv hc, State.queueWaste,
      State.modVat_vat_same]
    rfl
  · have hd : ¬ s.discardable v = true := by
      rcases hv with e | e | e | e | e | e | ⟨e, hc⟩ | ⟨c, e, hc, hst⟩
      case inr.inr.inr.inr.inr.inr.inr => simp [State.discardable, e, hc, hst]
      case inr.inr.inr.inr.inr.inr.inl => simp [State.discardable, e, hc]
      all_goals simp [State.discardable, e]
    rw [exec_discard ha hs hm, if_neg hd]

end Sys2Proof.Machine
end

section
/-! PROOFS. What a bank's inputs do (O55, O56): a change of PROVED and a FLOW pulse, by the bank's state. -/

namespace Sys2Proof.Machine

variable {s : State} {b : Bank} {c : Current}

/-! ### PROVED -/

theorem exec_provedRise (hr : s.inReset = false) (hp : s.proved[b] = false) :
    exec (.provedRise b) s = .next ((s.seeProved b true).applyProvedRise b) := by
  change Host.Outcome.next (if s.proved[b] = true then s else if s.inReset = true then s.seeProved b true
    else (s.seeProved b true).applyProvedRise b) = _
  rw [if_neg (by simp [hp]), if_neg (by simp [hr])]

theorem exec_provedFall (hr : s.inReset = false) (hp : s.proved[b] = true) :
    exec (.provedFall b) s = .next ((s.seeProved b false).applyProvedFall b) := by
  change Host.Outcome.next (if (!s.proved[b]) = true then s else if s.inReset = true then s.seeProved b false
    else (s.seeProved b false).applyProvedFall b) = _
  rw [if_neg (by simp [hp]), if_neg (by simp [hr])]

theorem State.applyProvedRise_of_opening (hs : (s.bank b).state = .opening) : s.applyProvedRise b = s.openPath b := by
  rw [State.applyProvedRise, hs]

/-- A path that opens with its transfer wanted: the transfer runs (R56). -/
theorem State.openPath_of_wanted (hc : (s.bank b).current = some c) (hx : c.cancel = false) : s.openPath b =
    s.modBank b fun k => { k with state := .opened, travel := none, pathOpen := some 0,
                                  current := some { c with phase := .running },
                                  noFlow := some ⟨0, s.settings.noFlowTime⟩ } := by
  rw [State.openPath, hc]
  exact if_neg (by simp [hx])

/-- A path that opens with its transfer cancelled: the fill ends (R26, R56). -/
theorem State.openPath_of_cancelled (hc : (s.bank b).current = some c) (hx : c.cancel = true) : s.openPath b =
    ((s.modBank b fun k => { k with state := .opened, travel := none, pathOpen := some 0, current := none }).endFill
      c.entry.vat).afterTransfer b := by
  rw [State.openPath, hc]
  exact if_pos hx

/-- PROVED comes high where the path should be closed (R66). -/
theorem State.applyProvedRise_of_closed (h : (s.bank b).state = .ready ∨ (s.bank b).state = .rinsing ∨
    (s.bank b).state = .priming ∨ (s.bank b).state = .parked ∨
    ((s.bank b).state = .closing ∧ (s.bank b).closePhase = some .drain) ∨
    ((s.bank b).state = .start ∧ (s.bank b).startPhase = some .flush)) :
    s.applyProvedRise b = s.faultBank b .valve := by
  unfold State.applyProvedRise
  rcases h with e | e | e | e | ⟨e, hp⟩ | ⟨e, hp⟩ <;> simp only [e]
  · exact if_pos hp
  · exact if_pos hp

/-- PROVED comes high where its level is only followed (R66, R74). -/
theorem State.applyProvedRise_of_followed
    (h : (s.bank b).state = .faulted ∨ ((s.bank b).state = .start ∧ (s.bank b).startPhase = some .prove)) :
    s.applyProvedRise b = s := by
  unfold State.applyProvedRise
  rcases h with e | ⟨e, hp⟩ <;> simp only [e]
  exact if_neg (by simp [hp])

/-- PROVED falls in the TRAVEL phase: the drain begins (R58). -/
theorem State.applyProvedFall_of_travel (hs : (s.bank b).state = .closing) (hp : (s.bank b).closePhase = some .travel) :
    s.applyProvedFall b = s.beginDrain b := by
  rw [State.applyProvedFall, hs]
  exact if_pos hp

theorem State.applyProvedFall_of_opened (hs : (s.bank b).state = .opened) :
    s.applyProvedFall b = s.faultBank b .valve := by rw [State.applyProvedFall, hs]

/-- PROVED falls in the PROVE phase: the first flush begins (R74, R75). -/
theorem State.applyProvedFall_of_prove (hs : (s.bank b).state = .start) (hp : (s.bank b).startPhase = some .prove) :
    s.applyProvedFall b = s.modBank b fun k => k.beginFlushing s.settings.flushDuration := by
  rw [State.applyProvedFall, hs]
  exact if_pos hp

theorem State.applyProvedFall_of_faulted (hs : (s.bank b).state = .faulted) : s.applyProvedFall b = s := by
  rw [State.applyProvedFall, hs]

/-- Settles O55: the level is followed first, and the bank's state then says what the change means. -/
theorem provedChanges : Obligations.ProvedChanges := by
  refine ⟨fun s b hr hp => ⟨fun c hs hc => ⟨fun hx => ?_, fun hx => ?_⟩, fun h => ?_, fun h => ?_⟩,
    fun s b hr hp => ⟨fun hs hph => ⟨fun hd => ?_, fun hd => ?_⟩, fun hs => ?_, fun hs hph => ?_, fun hs => ?_⟩⟩
  · rw [exec_provedRise hr hp, State.applyProvedRise_of_opening (s := s.seeProved b true) hs,
      State.openPath_of_wanted (s := s.seeProved b true) hc hx]
    rfl
  · rw [exec_provedRise hr hp, State.applyProvedRise_of_opening (s := s.seeProved b true) hs,
      State.openPath_of_cancelled (s := s.seeProved b true) hc hx]
    rfl
  · rw [exec_provedRise hr hp, State.applyProvedRise_of_closed (s := s.seeProved b true) h]
    rfl
  · rw [exec_provedRise hr hp, State.applyProvedRise_of_followed (s := s.seeProved b true) h]
    rfl
  · rw [exec_provedFall hr hp, State.applyProvedFall_of_travel (s := s.seeProved b false) hs hph]
    exact congrArg _ (if_neg hd)
  · rw [exec_provedFall hr hp, State.applyProvedFall_of_travel (s := s.seeProved b false) hs hph]
    exact congrArg _ (if_pos hd)
  · rw [exec_provedFall hr hp, State.applyProvedFall_of_opened (s := s.seeProved b false) hs]
    rfl
  · rw [exec_provedFall hr hp, State.applyProvedFall_of_prove (s := s.seeProved b false) hs hph]
    rfl
  · rw [exec_provedFall hr hp, State.applyProvedFall_of_faulted (s := s.seeProved b false) hs]
    rfl

/-! ### FLOW -/

theorem exec_flowPulse (hr : s.inReset = false) (b : Bank) : exec (.flowPulse b) s = .next (s.applyFlow b) :=
  congrArg _ (if_neg (by simp [hr]))

theorem State.applyFlow_of_faulted (hs : (s.bank b).state = .faulted) : s.applyFlow b = s := if_pos hs

/-- A pulse with no RUNNING transfer is stray (R65). -/
theorem State.applyFlow_of_stray (hs : (s.bank b).state ≠ .faulted)
    (hc : ∀ c, (s.bank b).current = some c → c.phase ≠ .running) : s.applyFlow b = s.faultBank b .stray := by
  refine (if_neg hs).trans ?_
  split
  · rename_i c h
    exact if_neg (hc c h)
  · rfl

theorem State.applyFlow_of_running (hs : (s.bank b).state ≠ .faulted) (hc : (s.bank b).current = some c)
    (hp : c.phase = .running) : s.applyFlow b = s.meter b c := by
  refine (if_neg hs).trans ?_
  rw [hc]
  exact if_pos hp

/-- A metered pulse short of the target (R59). -/
theorem State.meter_of_lt (h : c.entry.volume + s.settings.litresPerPulse < c.entry.target) : s.meter b c =
    (s.addFilled c s.settings.litresPerPulse).modBank b fun k =>
      { k with current := some { c with entry := { c.entry with volume := c.entry.volume + s.settings.litresPerPulse } },
               noFlow := some ⟨0, s.settings.noFlowTime⟩ } := if_neg (Nat.not_le.mpr h)

/-- A metered pulse that reaches the target (R59). -/
theorem State.meter_of_le (h : c.entry.target ≤ c.entry.volume + s.settings.litresPerPulse) : s.meter b c =
    (((s.addFilled c s.settings.litresPerPulse).modBank b fun k =>
      { k with current := none, noFlow := none }).reportComplete
        { c.entry with volume := c.entry.volume + s.settings.litresPerPulse }).afterTransfer b := if_pos h

theorem State.addFilled_of_fill (h : c.entry.kind = .fill) (n : Nat) :
    s.addFilled c n = s.modVat c.entry.vat fun r => { r with filled := r.filled + n } := by rw [State.addFilled, h]

theorem State.addFilled_of_wash (h : c.entry.kind = .wash) (n : Nat) : s.addFilled c n = s := by
  rw [State.addFilled, h]

theorem State.reportComplete_of_fill {e : Transfer} (h : e.kind = .fill) : s.reportComplete e =
    (s.modVat e.vat fun r => { r with stage := .charged }).raise .fill
      (.fillComplete (s.vat e.vat).slot e.vat (s.vat e.vat).batch (s.vat e.vat).filled) := by
  simp only [State.reportComplete, h]

theorem State.reportComplete_of_wash {e : Transfer} (h : e.kind = .wash) : s.reportComplete e =
    (s.modVat e.vat VatRecord.cleared).raise .fill (.washComplete (s.vat e.vat).slot e.vat) := by
  simp only [State.reportComplete, h]
  rfl

/-- A fill that reaches its target: the litres and the new stage are one change of the vat's record (R25). -/
theorem State.reportComplete_filled (s : State) (b : Bank) (e : Transfer) (n : Nat) (f : BankRecord → BankRecord)
    (h : e.kind = .fill) :
    (((s.modVat e.vat fun r => { r with filled := r.filled + n }).modBank b f).reportComplete e) =
      ((s.modBank b f).modVat e.vat fun r => { r with filled := r.filled + n, stage := .charged }).raise .fill
        (.fillComplete (s.vat e.vat).slot e.vat (s.vat e.vat).batch ((s.vat e.vat).filled + n)) := by
  rw [State.reportComplete_of_fill h, State.modBank_vat, State.modVat_vat_same]
  exact congrArg (fun t : State => t.raise .fill _)
    (State.modVat_modVat (s.modBank b f) e.vat (fun r => { r with filled := r.filled + n }) _)

/-- Settles O56: a pulse is metered by the RUNNING transfer, to its target, and is stray otherwise. -/
theorem flowPulse : Obligations.FlowPulse := by
  intro s b hr
  refine ⟨fun hs => ?_, fun hs hc => ?_, fun c hs hc hp => ⟨fun hlt => ⟨fun hk => ?_, fun hk => ?_⟩,
    fun hle => ⟨fun hk => ?_, fun hk => ?_⟩⟩⟩
  · rw [exec_flowPulse hr, State.applyFlow_of_faulted hs]
  · rw [exec_flowPulse hr, State.applyFlow_of_stray hs hc]
  · rw [exec_flowPulse hr, State.applyFlow_of_running hs hc hp, State.meter_of_lt hlt, State.addFilled_of_fill hk]
  · rw [exec_flowPulse hr, State.applyFlow_of_running hs hc hp, State.meter_of_lt hlt, State.addFilled_of_wash hk]
  · rw [exec_flowPulse hr, State.applyFlow_of_running hs hc hp, State.meter_of_le hle, State.addFilled_of_fill hk]
    exact congrArg (fun t : State => Host.Outcome.next (t.afterTransfer b))
      (State.reportComplete_filled s b { c.entry with volume := c.entry.volume + s.settings.litresPerPulse } _ _ hk)
  · rw [exec_flowPulse hr, State.applyFlow_of_running hs hc hp, State.meter_of_le hle, State.addFilled_of_wash hk]
    exact congrArg (fun t : State => Host.Outcome.next (t.afterTransfer b)) (State.reportComplete_of_wash
      (e := { c.entry with volume := c.entry.volume + s.settings.litresPerPulse }) hk)

end Sys2Proof.Machine
end

section
/-! PROOFS. What an entry that joins a bank's list brings about, and what a look of a bank does (O27). -/

namespace Sys2Proof.Machine

variable {s : State} {b : Bank} {e : Transfer}

/-! ### The park timer and PRIMING -/

theorem State.modBank_of_same (b : Bank) {g : BankRecord → BankRecord} (e : g (s.bank b) = s.bank b) :
    s.modBank b g = s := by rw [State.modBank, e, State.setBank_self]

theorem State.hasEligible_iff : s.hasEligible b = true ↔ ∃ e ∈ (s.bank b).list, s.eligible e = true := by
  simp [State.hasEligible]

theorem State.hasEligible_false_iff : s.hasEligible b = false ↔ ∀ e ∈ (s.bank b).list, s.eligible e = false := by
  simp [State.hasEligible]

/-- The park timer runs in READY with nothing eligible and a park delay (R83). -/
theorem State.parkLook_of_waiting (hs : (s.bank b).state = .ready) (he : s.hasEligible b = false)
    (hd : s.settings.parkDelay ≠ 0) : s.parkLook b = s.modBank b fun k => { k with park := some (k.park.getD 0) } :=
  if_pos (by simp [hs, he, hd])

theorem State.parkLook_of_stopped
    (h : (s.bank b).state ≠ .ready ∨ s.hasEligible b = true ∨ s.settings.parkDelay = 0) :
    s.parkLook b = s.modBank b fun k => { k with park := none } :=
  if_neg (by rcases h with h | h | h <;> simp [h])

/-- A look at a park timer that does not run and is not to run. -/
theorem State.parkLook_of_still (hs : (s.bank b).state ≠ .ready) (hp : (s.bank b).park = none) : s.parkLook b = s :=
  (State.parkLook_of_stopped (.inl hs)).trans (State.modBank_of_same b (by rw [← hp]))

theorem State.enterPriming_bank (s : State) (b : Bank) : (s.enterPriming b).bank b =
    { s.bank b with state := .priming, faultCause := none, rinseCount := 0, flush := some ⟨0, s.settings.flushDuration⟩,
                    park := none, parkDrain := none, parkPulse := none } := State.modBank_bank_same s b _

/-! ### Eligibility and takes -/

theorem State.present_iff (l : Link) : s.present l = true ↔ ∃ n, (s.link l).presence = some n := Option.isSome_iff_exists

theorem State.eligible_iff : s.eligible e = true ↔
    (s.vat e.vat).held = false ∧ (e.kind = .wash ∨ s.present .fill = true) := by simp [State.eligible, State.isHeld]

theorem State.mayTake_iff : s.mayTake b = true ↔ (s.frozen.banks = false ∧ (s.bank b).rinsePending = false) ∧
    ((s.bank b).state = .ready ∨ ((s.bank b).state = .opened ∧ (s.bank b).current = none)) := by simp [State.mayTake]

/-- A look with nothing to do (R54, R55, R69, R79). -/
theorem State.bankLook_of_no_take (h : s.frozen.banks = true ∨ (s.bank b).rinsePending = true ∨
    ((s.bank b).state ≠ .ready ∧ ((s.bank b).state ≠ .opened ∨ (s.bank b).current ≠ none)) ∨
    (∀ e ∈ (s.bank b).list, s.eligible e = false)) : s.bankLook b = s := by
  refine State.bankLook_of_idle ?_
  rw [State.looksUseful, Bool.and_eq_false_iff, State.hasEligible_false_iff, ← Bool.not_eq_true, State.mayTake_iff]
  rcases h with h | h | ⟨h₁, h₂⟩ | h
  · exact .inl (by simp [h])
  · exact .inl (by simp [h])
  · refine .inl ?_
    rintro ⟨-, h | ⟨ho, hc⟩⟩
    · exact h₁ h
    · exact h₂.elim (· ho) (· hc)
  · exact .inr h

section Chosen

variable {before behind : List Transfer}

/-- What a bank that may take makes of its head-most eligible entry (R54). -/
theorem State.bankLook_of_chosen (hm : s.mayTake b = true) (hl : (s.bank b).list = before ++ e :: behind)
    (hb : ∀ y ∈ before, s.eligible y = false) (he : s.eligible e = true) : s.bankLook b =
      if (s.bank b).state = .ready then s.takeTransfer b e (before ++ behind)
      else if (s.bank b).path = some e.vat then s.hitTransfer b e (before ++ behind)
      else s.beginClose b .miss := by
  have hp : pick? s.eligible (s.bank b).list = some (e, before ++ behind) :=
    pick?_eq_some.mpr ⟨before, behind, hl, rfl, he, hb⟩
  rw [State.bankLook, if_pos hm, hp]

end Chosen

theorem State.reportTake_of_wash (h : e.kind = .wash) : s.reportTake b e = s := by rw [State.reportTake, h]

theorem State.reportTake_of_fill (h : e.kind = .fill) : s.reportTake b e =
    (s.modVat e.vat fun r => { r with stage := if r.stage = .fillQueued then .filling else r.stage }).raise .fill
      (.fillStarted (s.vat e.vat).slot e.vat b e.resumed e.volume) := by
  simp only [State.reportTake, h]
  congr 1
  refine State.modVat_congr _ ?_
  split <;> rfl

/-! ### Entries that join -/

theorem State.joinTransfer_of_unparked (h : (s.bank b).state ≠ .parked) (e : Transfer) : s.joinTransfer b e =
    ((s.modBank b fun k => { k with list := k.list ++ [e] }).bankLook b).parkLook b :=
  if_neg (by rw [State.modBank_bank_same]; exact h)

/-- An entry that joins a PARKED bank wakes it (R85). -/
theorem State.joinTransfer_of_parked (h : (s.bank b).state = .parked) (e : Transfer) : s.joinTransfer b e =
    (s.modBank b fun k => { k with list := k.list ++ [e] }).enterPriming b :=
  if_pos (by rw [State.modBank_bank_same]; exact h)

/-- An entry that joins a bank which does not look waits at the tail (R53). -/
theorem State.joinTransfer_of_busy (h₁ : (s.bank b).state ≠ .ready) (h₂ : (s.bank b).state ≠ .opened)
    (h₃ : (s.bank b).state ≠ .parked) (hp : (s.bank b).park = none) (e : Transfer) :
    s.joinTransfer b e = s.modBank b fun k => { k with list := k.list ++ [e] } := by
  have hb := State.modBank_bank_same s b fun k => { k with list := k.list ++ [e] }
  rw [State.joinTransfer_of_unparked h₃, State.bankLook_of_no_take (.inr (.inr (.inl ?_))), State.parkLook_of_still]
  · rw [hb]
    exact h₁
  · rw [hb]
    exact hp
  · rw [hb]
    exact ⟨h₁, .inl h₂⟩

/-- An eligible entry that joins a READY bank with an empty list is taken (R54, R55). -/
theorem State.joinTransfer_of_ready (hs : (s.bank b).state = .ready) (hl : (s.bank b).list = [])
    (hf : s.frozen.banks = false) (hr : (s.bank b).rinsePending = false) (he : s.eligible e = true) :
    s.joinTransfer b e = (s.modBank b fun k =>
      { k with list := [], state := .opening, path := some e.vat, current := some ⟨e, .openingPath, false⟩,
               travel := some ⟨0, s.settings.travelLimit⟩, park := none }).reportTake b e := by
  have hb := State.modBank_bank_same s b fun k => { k with list := k.list ++ [e] }
  have hm : (s.modBank b fun k => { k with list := k.list ++ [e] }).mayTake b = true :=
    State.mayTake_iff.mpr (by rw [hb]; exact ⟨⟨hf, hr⟩, .inl hs⟩)
  have hlook := State.bankLook_of_chosen (e := e) (before := []) (behind := []) hm
    ((congrArg BankRecord.list hb).trans (congrArg (· ++ [e]) hl)) (fun _ h => (List.not_mem_nil h).elim) he
  rw [if_pos (by rw [hb]; exact hs), State.takeTransfer, State.modBank_modBank] at hlook
  rw [State.joinTransfer_of_unparked (by rw [hs]; decide), hlook, State.parkLook_of_still]
  · rfl
  · rw [State.reportTake_bank, State.modBank_bank_same]
    exact fun h => by cases h
  · rw [State.reportTake_bank, State.modBank_bank_same]

/-! ### Several banks -/

theorem State.wakes_iff (becomes : Transfer → Bool) : s.wakes becomes b = true ↔
    (s.bank b).state = .parked ∧ ∃ e ∈ (s.bank b).list, becomes e = true ∧ s.eligible e = true := by simp [State.wakes]

/-- A PARKED bank does not look. -/
theorem State.bankLook_of_parked (h : (s.bank b).state = .parked) : s.bankLook b = s :=
  State.bankLook_of_no_take (.inr (.inr (.inl (by simp [h]))))

/-- One bank that looks (R69). -/
theorem State.bankLooks_one (becomes : Transfer → Bool) (h : (s.bank b).state ≠ .parked) :
    s.bankLooks becomes [b] = (s.bankLook b).parkLook b := by
  have hw : s.wakes becomes b = false := by simp [State.wakes, h]
  unfold State.bankLooks
  cases hu : s.looksUseful b with
  | true => simp [hw, hu, State.parkLooks]
  | false => simp [hw, hu, State.parkLooks, State.bankLook_of_idle hu]

/-- Settles O27: an entry that joins wakes a PARKED bank and lets any other look, and each of several banks that look does
what its own record says. -/
theorem joiningEntriesWaitWakeOrAreTaken : Obligations.JoiningEntriesWaitWakeOrAreTaken := by
  refine ⟨fun s b e => ⟨fun hs hp => ?_, fun hs => ?_, fun hs hl hf hr hh hk => ?_⟩, fun s e => ?_,
    fun s b => ⟨State.bankLook_of_no_take, fun before e behind hf hr hl hb he => ⟨fun hs => ?_, fun hs hc => ?_⟩,
      fun e => ⟨State.reportTake_of_wash, State.reportTake_of_fill⟩, fun e hs => State.joinTransfer_of_unparked hs e,
      fun hs he hd => State.parkLook_of_waiting hs (State.hasEligible_false_iff.mpr he) hd,
      fun h => State.parkLook_of_stopped (h.imp_right (Or.imp_left State.hasEligible_iff.mpr))⟩,
    fun s becomes bs hn => ⟨fun b hb hs he => ?_, fun b hb hs he => ?_, fun b hb hs => ?_,
      fun b hb => (s.bankLooks_bank becomes hn b).2 hb, fun b hbs hs => ?_⟩,
    fun s bs hn => ⟨s.parkLooks_frame bs, s.parkLooks_bank hn⟩⟩
  · refine State.joinTransfer_of_busy ?_ ?_ ?_ hp e <;>
      rcases hs with e | e | e | e | e | e <;> simp [e]
  · rw [State.joinTransfer_of_parked hs, State.enterPriming, State.modBank_modBank]
    rfl
  · exact State.joinTransfer_of_ready hs hl hf hr (State.eligible_iff.mpr ⟨hh, hk⟩)
  · rw [State.eligible_iff, State.present_iff]
  · have hm := State.mayTake_iff.mpr ⟨⟨hf, hr⟩, .inl hs⟩
    rw [State.bankLook_of_chosen hm hl hb he, if_pos hs]
    rfl
  · have hm := State.mayTake_iff.mpr ⟨⟨hf, hr⟩, .inr ⟨hs, hc⟩⟩
    have hlook := State.bankLook_of_chosen hm hl hb he
    rw [if_neg (by simp [hs])] at hlook
    refine ⟨fun hp => ?_, fun hp => ?_⟩
    · rw [hlook, if_pos hp]
      rfl
    · rw [hlook, if_neg hp]
  · rw [(s.bankLooks_bank becomes hn b).1 hb, if_pos ((State.wakes_iff becomes).mpr ⟨hs, he⟩),
      State.parkLook_of_still, State.enterPriming_bank]
    · rw [State.enterPriming_bank]
      exact fun h => by cases h
    · rw [State.enterPriming_bank]
  · have hw : ¬ s.wakes becomes b = true := by
      rw [State.wakes_iff]
      rintro ⟨-, e, hm, h₁, h₂⟩
      rw [he e hm h₁] at h₂
      cases h₂
    rw [(s.bankLooks_bank becomes hn b).1 hb, if_neg hw, State.bankLook_of_parked hs,
      State.parkLook_of_stopped (.inl (by simp [hs])), State.modBank_bank_same]
  · have hw : ¬ s.wakes becomes b = true := by
      rw [State.wakes_iff]
      exact fun h => hs h.1
    rw [(s.bankLooks_bank becomes hn b).1 hb, if_neg hw]
  · rw [hbs, State.bankLooks_one becomes hs]

end Sys2Proof.Machine
end

section
/-! PROOFS. Orders withdrawn by a refusal or a block (O34), and the grant that a look of the carriage arbiter makes (O38). -/

namespace Sys2Proof.Machine

variable {s t : State} {l : Link} {edit : Bool} {f : Frame} {c d : Carriage} {v : Vat} {e : CutEntry} {n : Nat}

/-! ### Withdrawn orders -/

/-- An order withdrawn, and its entry back at the head of a list (R34, R100). -/
def State.orderReturned (s : State) (c : Carriage) (v : Vat) (cause : WithdrawCause) : State :=
  (((s.modCarriage c fun k =>
    { k with state := .free, freeSince := s.clock, vat := none, tag := none, orderedAt := none, start := none }).modVat v
      fun r => { r with carriage := none }).returnCut v).raise .cut
        (.orderWithdrawn c (s.carriage c).tag (some v) (s.vat v).slot cause)

theorem State.withdrawOrder_of_ordered (hs : (s.carriage c).state = .ordered) (hv : (s.carriage c).vat = some v)
    {cause : WithdrawCause} (hc : cause ≠ .cutClose) : s.withdrawOrder c cause = s.orderReturned c v cause := by
  simp only [State.withdrawOrder, hs, hv, State.withdrawCut, if_neg hc]
  rfl

theorem State.withdrawOrder_of_idle (hs : (s.carriage c).state ≠ .ordered) (cause : WithdrawCause) :
    s.withdrawOrder c cause = s := by
  unfold State.withdrawOrder
  split
  · contradiction
  · rfl

/-- An asked CUT REFUSED of an ORDERED carriage (R102). -/
theorem exec_cutRefused (ha : Asks s l edit .cutRefused f) (ht : f.byteAt 0 ≠ 0) (hc : s.standing? (f.byteAt 0) = some c)
    (hs : (s.carriage c).state = .ordered) : exec (.cutRefused l edit) s = .next
      ((s.answered l edit f .done []).withdrawOrder c .refused).cutLook := by
  refine (exec_of_asks ha).trans (congrArg _ ?_)
  change State.applyCutRefused ⟨l, f⟩ (s.taken l edit) = _
  rw [State.applyCutRefused, State.onTag_standing (s := s.taken l edit) (a := ⟨l, f⟩) _ ht hc]
  exact if_pos hs

/-- An asked CARRIAGE BLOCK (R107). -/
theorem exec_carriageBlock (ha : Asks s l edit .carriageBlock f) (hc : carriageOf? (f.byteAt 0) = some c) :
    exec (.carriageBlock l edit) s = .next (if (s.carriage c).state = .ordered then
      (((s.answered l edit f .done []).modCarriage c fun k => { k with blocked := true }).withdrawOrder c .blocked).cutLook
      else (s.answered l edit f .done []).modCarriage c fun k => { k with blocked := true }) := by
  refine (exec_of_asks ha).trans (congrArg _ ?_)
  change State.applyBlock ⟨l, f⟩ (s.taken l edit) = _
  rw [State.applyBlock, hc, State.inRange_some]
  rfl

theorem State.returnCut_of_urgent (h : s.cutListFor v = .urgent) :
    s.returnCut v = { s with urgent := s.cutEntry v :: s.urgent } := by rw [State.returnCut, h]

theorem State.returnCut_of_open (h : s.cutListFor v = .openList) :
    s.returnCut v = { s with openList := s.cutEntry v :: s.openList } := by rw [State.returnCut, h]

/-- Settles O34: a refusal and a block withdraw the order that stands, and the entry goes back to the head of the list that
the clock now gives it. -/
theorem refusalsAndBlocksWithdrawOrders : Obligations.RefusalsAndBlocksWithdrawOrders := by
  refine ⟨fun s l edit f c => ⟨fun v ha ht hc hs hv => ?_, fun v ha hc hs hv => ?_, fun ha hc hs => ?_⟩,
    fun s v => ⟨fun h => ?_, fun x hx h => ?_, fun x hx h => ?_⟩⟩
  · rw [exec_cutRefused ha ht hc hs,
      State.withdrawOrder_of_ordered (s := s.answered l edit f .done []) hs hv (by decide)]
    rfl
  · have hk := State.modCarriage_carriage_same (s.answered l edit f .done []) c fun k => { k with blocked := true }
    rw [exec_carriageBlock ha hc, if_pos hs, State.withdrawOrder_of_ordered (by rw [hk]; exact hs) (by rw [hk]; exact hv)
      (by decide), State.orderReturned, hk]
    rfl
  · rw [exec_carriageBlock ha hc, if_neg hs]
  · exact State.returnCut_of_urgent (by rw [State.cutListFor, h])
  · exact State.returnCut_of_urgent (by simp [State.cutListFor, hx, State.urgentAt, h])
  · exact State.returnCut_of_open (by simp [State.cutListFor, hx, State.urgentAt, h])

/-! ### The carriage of a grant -/

theorem carriage_eq_or (d : Carriage) : d = 0 ∨ d = 1 := by revert d; decide

/-- An entry has a carriage exactly when it is eligible for one (R95). -/
theorem State.carriageFor_eq_none : s.carriageFor e = none ↔ ∀ c, s.cutEligible e c = false := by
  rw [Fin.forall_fin_two]
  unfold State.carriageFor
  cases s.cutEligible e 0 <;> cases s.cutEligible e 1 <;> simp
  split <;> simp

theorem State.carriageFor_isSome_false : (s.carriageFor e).isSome = false ↔ ∀ c, s.cutEligible e c = false := by
  rw [← State.carriageFor_eq_none, Option.isSome_eq_false_iff, Option.isNone_iff_eq_none]

/-- Of the carriages an entry is eligible for, it has the one FREE for longer, and of two since the same time the first
(R95). -/
theorem State.carriageFor_longest (h : s.carriageFor e = some c) (hd : s.cutEligible e d = true) :
    (s.carriage c).freeSince ≤ (s.carriage d).freeSince ∧
      ((s.carriage c).freeSince = (s.carriage d).freeSince → c ≤ d) := by
  unfold State.carriageFor at h
  split at h
  · split at h <;> rename_i hlt <;> cases h <;> rcases carriage_eq_or d with rfl | rfl
    · exact ⟨hlt.le, fun e => absurd e hlt.ne⟩
    · exact ⟨le_rfl, fun _ => le_rfl⟩
    · exact ⟨le_rfl, fun _ => le_rfl⟩
    · exact ⟨not_lt.mp hlt, fun _ => by decide⟩
  · rename_i h₁
    cases h
    rcases carriage_eq_or d with rfl | rfl
    · exact ⟨le_rfl, fun _ => le_rfl⟩
    · rw [h₁] at hd
      cases hd
  · rename_i h₀ _
    cases h
    rcases carriage_eq_or d with rfl | rfl
    · rw [h₀] at hd
      cases hd
    · exact ⟨le_rfl, fun _ => le_rfl⟩
  · cases h

/-! ### The entry of a grant -/

/-- The entry chosen from URGENT is its head-most eligible one (R94). -/
theorem State.chooseCut_urgent {x : CutChoice} (h : s.chooseCut = some x) (hl : x.list = .urgent) :
    ∃ before behind, s.urgent = before ++ x.entry :: behind ∧ x.rest = before ++ behind ∧
      ∀ e ∈ before, ∀ c, s.cutEligible e c = false := by
  rcases State.chooseCut_eq_some h with ⟨-, hp⟩ | ⟨hl', -⟩
  · obtain ⟨before, behind, hu, hr, -, hb⟩ := pick?_eq_some.mp hp
    exact ⟨before, behind, hu, hr, fun e he => State.carriageFor_isSome_false.mp (hb e he)⟩
  · rw [hl] at hl'
    cases hl'

/-- An entry is chosen from OPEN while routine pause is off and no URGENT entry is eligible (R94). -/
theorem State.chooseCut_open_paused {x : CutChoice} (h : s.chooseCut = some x) (hl : x.list = .openList) :
    s.routinePause = false ∧ ∀ e ∈ s.urgent, ∀ c, s.cutEligible e c = false := by
  unfold State.chooseCut at h
  dsimp only at h
  split at h
  · cases h
    cases hl
  · rename_i hu
    split at h
    · cases h
    · rename_i hp
      exact ⟨by simpa using hp, fun e he => State.carriageFor_isSome_false.mp (pick?_eq_none.mp hu e he)⟩

theorem State.chooseCut_open {x : CutChoice} (h : s.chooseCut = some x) (hl : x.list = .openList) :
    ∃ before behind, s.openList = before ++ x.entry :: behind ∧ x.rest = before ++ behind ∧
      ∀ e ∈ before, ∀ c, s.cutEligible e c = false := by
  rcases State.chooseCut_eq_some h with ⟨hl', -⟩ | ⟨-, hp⟩
  · rw [hl] at hl'
    cases hl'
  · obtain ⟨before, behind, hu, hr, -, hb⟩ := pick?_eq_some.mp hp
    exact ⟨before, behind, hu, hr, fun e he => State.carriageFor_isSome_false.mp (hb e he)⟩

theorem State.chooseCut_carriage {x : CutChoice} (h : s.chooseCut = some x) : ∃ c, s.carriageFor x.entry = some c := by
  refine Option.isSome_iff_exists.mp ?_
  rcases State.chooseCut_eq_some h with ⟨-, hp⟩ | ⟨-, hp⟩ <;> obtain ⟨-, -, -, -, he, -⟩ := pick?_eq_some.mp hp <;>
    exact he

/-- No entry is chosen when none is eligible in a list that may be looked at (R94). -/
theorem State.chooseCut_eq_none (h : s.chooseCut = none) : (∀ e ∈ s.urgent, ∀ c, s.cutEligible e c = false) ∧
    (s.routinePause = true ∨ ∀ e ∈ s.openList, ∀ c, s.cutEligible e c = false) := by
  unfold State.chooseCut at h
  dsimp only at h
  split at h
  · cases h
  · rename_i hu
    refine ⟨fun e he => State.carriageFor_isSome_false.mp (pick?_eq_none.mp hu e he), ?_⟩
    split at h
    · rename_i hp
      exact .inl hp
    · split at h
      · cases h
      · rename_i ho
        exact .inr fun e he => State.carriageFor_isSome_false.mp (pick?_eq_none.mp ho e he)

theorem State.grantCut_of_chosen {x : CutChoice} (hf : s.frozen.carriages = false) (hp : s.present .cut = true)
    (hr : (s.link .cut).hasRoom = true) (hx : s.chooseCut = some x) (hc : s.carriageFor x.entry = some c) :
    s.grantCut = some (s.applyCutGrant x c) := by
  rw [State.grantCut, if_neg (by simp [hf, hp, hr]), hx]
  simp only [hc]

/-! ### The tag of a grant -/

theorem State.standing?_isSome : (s.standing? n).isSome = true ↔ ∃ c, (s.carriage c).tag = some n := by
  simp [State.standing?, allCarriages, Fin.exists_fin_two]

theorem nextTag_range (n : Nat) : 1 ≤ nextTag n ∧ nextTag n ≤ 255 := by
  unfold nextTag
  split <;> omega

theorem nextTag_ne (low : 1 ≤ n) : nextTag n ≠ n ∧ nextTag (nextTag n) ≠ n := by
  unfold nextTag
  split_ifs <;> omega

theorem State.freeTag_range (low : 1 ≤ n) (high : n ≤ 255) :
    ∀ fuel, 1 ≤ s.freeTag fuel n ∧ s.freeTag fuel n ≤ 255 := by
  intro fuel
  induction fuel generalizing n with
  | zero => exact ⟨low, high⟩
  | succ fuel ih =>
    rw [State.freeTag]
    split
    · exact ih (nextTag_range n).1 (nextTag_range n).2
    · exact ⟨low, high⟩

theorem State.freeTag_of_free (h : ∀ c, (s.carriage c).tag ≠ some n) (fuel : Nat) : s.freeTag fuel n = n := by
  cases fuel with
  | zero => rfl
  | succ fuel =>
    refine if_neg ?_
    rw [State.standing?_isSome]
    rintro ⟨c, hc⟩
    exact h c hc

/-- Two carriages hold two tags at most, so that of three tags in turn one is free (R97). -/
theorem State.freeTag_free (low : 1 ≤ n) : ∀ c, (s.carriage c).tag ≠ some (s.freeTag 2 n) := by
  obtain ⟨h₁, h₂⟩ := nextTag_ne low
  obtain ⟨h₃, -⟩ := nextTag_ne (nextTag_range n).1
  have hheld : ∀ m, (s.standing? m).isSome = true ↔ (s.carriage 0).tag = some m ∨ (s.carriage 1).tag = some m := fun m => by
    rw [State.standing?_isSome, Fin.exists_fin_two]
  rw [Fin.forall_fin_two]
  simp only [State.freeTag, hheld]
  split_ifs with ha hb
  · rcases ha with ha | ha <;> rcases hb with hb | hb
    · exact absurd (Option.some.inj (ha.symm.trans hb)).symm h₁
    · simp [ha, hb, h₂.symm, h₃.symm]
    · simp [ha, hb, h₂.symm, h₃.symm]
    · exact absurd (Option.some.inj (ha.symm.trans hb)).symm h₁
  · simpa using hb
  · simpa using ha

/-! ### What a grant changes -/

theorem LinkUnit.raise_of_room {u : LinkUnit} (h : u.hasRoom = true) (x : Notice) :
    u.raise x = { u with queue := u.queue ++ [.notice x] } := if_pos h

theorem State.applyCutGrant_link (x : CutChoice) (c : Carriage) :
    (s.applyCutGrant x c).link .cut = (s.link .cut).raise (s.cutOrderFor x c) ∧
      ∀ l, l ≠ .cut → (s.applyCutGrant x c).link l = s.link l := by
  have hl : ∀ (l : Link) (tag : Nat) (late : List Nat) (last : Option Carriage), ({ s.withoutChosen x with
      tagCounter := tag, lateTags := late, lastGranted := last } : State).link l = s.link l := fun l _ _ _ => by
    unfold State.withoutChosen
    split <;> rfl
  refine ⟨?_, fun l h => ?_⟩
  · rw [State.applyCutGrant, State.raise_link_same, State.modVat_link, State.modCarriage_link, hl]
  · rw [State.applyCutGrant, State.raise_link_ne _ _ h, State.modVat_link, State.modCarriage_link, hl]

theorem State.applyCutGrant_vat_ne (x : CutChoice) (c : Carriage) (h : v ≠ x.entry.vat) :
    (s.applyCutGrant x c).vat v = s.vat v := by
  have hsame : ∀ v, ({ s.withoutChosen x with
      tagCounter := nextTag s.tagToIssue, lateTags := s.lateTags.filter (fun n => decide (n ≠ s.tagToIssue)),
      lastGranted := some c } : State).vat v = s.vat v := State.withoutChosen_vat s x
  rw [State.applyCutGrant, State.raise_vat, State.modVat_vat_ne _ _ h, State.modCarriage_vat, hsame]

theorem State.applyCutGrant_lists (x : CutChoice) (c : Carriage) :
    (s.applyCutGrant x c).urgent = (s.withoutChosen x).urgent ∧
      (s.applyCutGrant x c).openList = (s.withoutChosen x).openList := ⟨rfl, rfl⟩

/-- Settles O38: the choice of the entry, of the carriage and of the tag, and the one change of each record that a grant
makes. -/
theorem cutGrantChoosesHeadMost : Obligations.CutGrantChoosesHeadMost := by
  refine ⟨fun s x c hf hp hr hx hc => ⟨State.grantCut_of_chosen hf hp hr hx hc, State.chooseCut_urgent hx,
      fun hl => ?_, State.carriageFor_eligible hc, fun d hd => State.carriageFor_longest hc hd,
      fun low high => ?_⟩,
    fun s => ⟨fun x hx => State.chooseCut_carriage hx, State.chooseCut_eq_none⟩,
    fun s => ⟨fun h => ?_, fun t h => ⟨fun h' => ?_, fun u h' => ?_⟩⟩,
    fun s x c hr hclock => ⟨(CutWork.applyCutGrant s x c).frame, State.applyCutGrant_carriage_same x c,
      fun d hd => State.applyCutGrant_carriage_ne x hd, State.applyCutGrant_vat_same x c,
      fun v hv => State.applyCutGrant_vat_ne x c hv, fun hl => ?_, fun hl => ?_, ?_,
      (State.applyCutGrant_link x c).2, fun h => State.freeTag_of_free h 2⟩⟩
  · obtain ⟨hpause, hurgent⟩ := State.chooseCut_open_paused hx hl
    exact ⟨hpause, hurgent, State.chooseCut_open hx hl⟩
  · obtain ⟨hlow, hhigh⟩ := State.freeTag_range (s := s) low high 2
    exact ⟨hlow, hhigh, State.freeTag_free low⟩
  · rw [State.cutLook, h]
  · rw [State.cutLook, h]
    exact congrArg (Option.getD · t) h'
  · rw [State.cutLook, h]
    exact congrArg (Option.getD · t) h'
  · obtain ⟨hu, ho⟩ := State.applyCutGrant_lists (s := s) x c
    rw [hu, ho, State.withoutChosen, hl]
    exact ⟨rfl, rfl⟩
  · obtain ⟨hu, ho⟩ := State.applyCutGrant_lists (s := s) x c
    rw [hu, ho, State.withoutChosen, hl]
    exact ⟨rfl, rfl⟩
  · rw [(State.applyCutGrant_link x c).1, LinkUnit.raise_of_room hr, State.cutOrderFor, after_of_lt hclock]

end Sys2Proof.Machine
end

section
/-! PROOFS. A break of a link (O20): what it empties, and what the absence of the station then brings about. -/

namespace Sys2Proof.Machine

variable {s m : State} {l : Link} {c d : Carriage} {v w : Vat} {cause : WithdrawCause}

/-! ### Every order withdrawn -/

@[simp] theorem State.returnCut_carriage (s : State) (v : Vat) (d : Carriage) :
    (s.returnCut v).carriage d = s.carriage d := by
  unfold State.returnCut
  split <;> rfl

@[simp] theorem State.returnCut_link (s : State) (v : Vat) (l : Link) : (s.returnCut v).link l = s.link l := by
  unfold State.returnCut
  split <;> rfl

@[simp] theorem State.returnCut_clock (s : State) (v : Vat) : (s.returnCut v).clock = s.clock := by
  unfold State.returnCut
  split <;> rfl

theorem State.orderReturned_carriage_ne (v : Vat) (cause : WithdrawCause) (h : d ≠ c) :
    (s.orderReturned c v cause).carriage d = s.carriage d := by
  rw [State.orderReturned, State.raise_carriage, State.returnCut_carriage, State.modVat_carriage,
    State.modCarriage_carriage_ne _ _ h]

theorem State.orderReturned_link (c : Carriage) (v : Vat) (cause : WithdrawCause) :
    (s.orderReturned c v cause).link .cut =
      (s.link .cut).raise (.orderWithdrawn c (s.carriage c).tag (some v) (s.vat v).slot cause) := by
  rw [State.orderReturned, State.raise_link_same, State.returnCut_link, State.modVat_link, State.modCarriage_link]

theorem State.orderReturned_clock (c : Carriage) (v : Vat) (cause : WithdrawCause) :
    (s.orderReturned c v cause).clock = s.clock := by
  rw [State.orderReturned, State.raise_clock, State.returnCut_clock, State.modVat_clock, State.modCarriage_clock]

/-- An order withdrawn, with the make clock as another state has it. -/
theorem State.orderReturned_at {n : Nat} (h : s.clock = n) : s.orderReturned c v cause =
    (((s.modCarriage c fun k =>
      { k with state := .free, freeSince := n, vat := none, tag := none, orderedAt := none, start := none }).modVat v
        fun r => { r with carriage := none }).returnCut v).raise .cut
          (.orderWithdrawn c (s.carriage c).tag (some v) (s.vat v).slot cause) := by
  rw [← h]
  rfl

/-- The orders of both carriages withdrawn, that of `c` first (R109). -/
def State.bothWithdrawn (s : State) (c d : Carriage) : State := (s.withdrawOrder c .absent).withdrawOrder d .absent

theorem State.withdrawForAbsence_cases (s : State) :
    ∃ c d : Carriage, c ≠ d ∧ (∀ later, s.lastGranted = some later → later = c) ∧
      s.withdrawForAbsence = s.bothWithdrawn c d := by
  unfold State.withdrawForAbsence
  split
  · rename_i h
    exact ⟨0, 1, by decide, fun later e => by rw [h] at e; exact (Option.some.inj e).symm, rfl⟩
  · rename_i h
    refine ⟨1, 0, by decide, fun later e => ?_, rfl⟩
    rcases carriage_eq_or later with rfl | rfl
    · exact absurd e h
    · rfl

theorem State.bothWithdrawn_of_idle (h : ∀ c, (s.carriage c).state ≠ .ordered) : s.bothWithdrawn c d = s := by
  rw [State.bothWithdrawn, State.withdrawOrder_of_idle (h c), State.withdrawOrder_of_idle (h d)]

/-- Of two carriages one is ORDERED: its order is withdrawn, in whichever turn. -/
theorem State.bothWithdrawn_of_first (hcd : c ≠ d) (hs : (s.carriage c).state = .ordered)
    (hv : (s.carriage c).vat = some v) (hd : (s.carriage d).state ≠ .ordered) :
    s.bothWithdrawn c d = s.orderReturned c v .absent := by
  rw [State.bothWithdrawn, State.withdrawOrder_of_ordered hs hv (by decide), State.withdrawOrder_of_idle]
  rw [State.orderReturned_carriage_ne v _ hcd.symm]
  exact hd

theorem State.bothWithdrawn_of_second (hs : (s.carriage d).state = .ordered) (hv : (s.carriage d).vat = some v)
    (hc : (s.carriage c).state ≠ .ordered) : s.bothWithdrawn c d = s.orderReturned d v .absent := by
  rw [State.bothWithdrawn, State.withdrawOrder_of_idle hc, State.withdrawOrder_of_ordered hs hv (by decide)]

theorem State.bothWithdrawn_of_both (hcd : c ≠ d) (hs : (s.carriage c).state = .ordered)
    (hv : (s.carriage c).vat = some v) (hs' : (s.carriage d).state = .ordered) (hv' : (s.carriage d).vat = some w) :
    s.bothWithdrawn c d = (s.orderReturned c v .absent).orderReturned d w .absent := by
  have hd := State.orderReturned_carriage_ne (s := s) v .absent hcd.symm
  rw [State.bothWithdrawn, State.withdrawOrder_of_ordered hs hv (by decide),
    State.withdrawOrder_of_ordered (by rw [hd]; exact hs') (by rw [hd]; exact hv') (by decide)]

theorem carriage_eq_of_ne {c c' d : Carriage} (h : c ≠ d) (h' : c' ≠ d) : c' = c := by revert c c' d; decide

/-! ### Links that hold notices alone -/

/-- `u'` is `u` with at most `n` notices in its queue, and nothing else. -/
def LinkUnit.Noticed (n : Nat) (u u' : LinkUnit) : Prop :=
  ∃ ns : List Notice, ns.length ≤ n ∧ u' = { u with queue := ns.map Message.notice }

theorem LinkUnit.Noticed.raise {n : Nat} {u u' : LinkUnit} (h : u.Noticed n u') (hn : n < Config.transmitRoom)
    (x : Notice) : u.Noticed (n + 1) (u'.raise x) := by
  obtain ⟨ns, hlen, rfl⟩ := h
  refine ⟨ns ++ [x], ?_, ?_⟩
  · rw [List.length_append]
    exact Nat.succ_le_succ hlen
  · rw [LinkUnit.raise_of_room (by simpa [LinkUnit.hasRoom] using lt_of_le_of_lt hlen hn), List.map_append]
    rfl

theorem LinkUnit.Noticed.mono {n k : Nat} {u u' : LinkUnit} (h : u.Noticed n u') (hk : n ≤ k) : u.Noticed k u' := by
  obtain ⟨ns, hlen, e⟩ := h
  exact ⟨ns, hlen.trans hk, e⟩

/-- A withdrawal for absence raises one notice on the Cut link, or none. -/
theorem LinkUnit.Noticed.withdrawOrder {n : Nat} {u : LinkUnit} (h : u.Noticed n (s.link .cut))
    (hn : n < Config.transmitRoom) (c : Carriage) : u.Noticed (n + 1) ((s.withdrawOrder c .absent).link .cut) := by
  by_cases hs : (s.carriage c).state = .ordered
  · cases hv : (s.carriage c).vat with
    | some v =>
      rw [State.withdrawOrder_of_ordered hs hv (by decide), State.orderReturned_link]
      exact h.raise hn _
    | none =>
      have : s.withdrawOrder c .absent = s := by simp only [State.withdrawOrder, hs, hv]
      rw [this]
      exact h.mono (Nat.le_succ n)
  · rw [State.withdrawOrder_of_idle hs]
    exact h.mono (Nat.le_succ n)

theorem LinkUnit.Noticed.withdrawForAbsence {u : LinkUnit} (h : u.Noticed 0 (s.link .cut)) :
    u.Noticed 2 (s.withdrawForAbsence.link .cut) := by
  obtain ⟨c, d, -, -, e⟩ := s.withdrawForAbsence_cases
  rw [e]
  exact (h.withdrawOrder (by decide) c).withdrawOrder (by decide) d

/-! ### The break -/

/-- A link whose line is broken: the open frame, the buffer and the queue are lost (R150). -/
def State.silenced (s : State) (l : Link) : State :=
  s.modLink l fun u => { u with assembly := none, buffer := [], queue := [], inBreak := true }

theorem exec_lineBreak (hr : s.inReset = false) (hb : (s.link l).inBreak = false)
    (hu : l = .console → s.restartUnsent = false) :
    exec (.lineBreak l) s = .next ((s.silenced l).becomeAbsent l .lineBreak) := by
  refine congrArg _ ((if_neg (by simp [hr, hb])).trans (if_neg ?_))
  rintro ⟨hl, h⟩
  rw [hu hl] at h
  cases h

/-- A station that becomes ABSENT, before the block that reads its presence acts (R151). -/
def State.markedAbsent (s : State) (l : Link) (cause : AbsentCause) : State :=
  (s.modLink l fun k => { k with presence := none }).raise .console (.stationAbsent l cause)

theorem State.becomeAbsent_of_absent (h : s.present l = false) (cause : AbsentCause) : s.becomeAbsent l cause = s :=
  if_neg (by simp [h])

theorem State.markedAbsent_link (h : l ≠ .console) (cause : AbsentCause) :
    (s.markedAbsent l cause).link l = { s.link l with presence := none } := by
  rw [State.markedAbsent, State.raise_link_ne _ _ h, State.modLink_link_same]

theorem State.becomeAbsent_fill (h : s.present .fill = true) (cause : AbsentCause) :
    s.becomeAbsent .fill cause = (s.markedAbsent .fill cause).parkLooks allBanks := if_pos h

/-- The Cut station's absence withdraws its orders, and there is no grant while it is ABSENT (R93, R109). -/
theorem State.becomeAbsent_cut (h : s.present .cut = true) (cause : AbsentCause) :
    s.becomeAbsent .cut cause = (s.markedAbsent .cut cause).withdrawForAbsence := by
  refine (if_pos h).trans (State.cutLook_of_stopped (.inr (.inl ?_)))
  rw [(CutWork.withdrawForAbsence _).links.present, State.present]
  exact congrArg (fun u : LinkUnit => u.presence.isSome) (State.markedAbsent_link (by decide) cause)

theorem State.becomeAbsent_press (h : s.present .press = true) (cause : AbsentCause) :
    s.becomeAbsent .press cause = s.markedAbsent .press cause := if_pos h

theorem State.becomeAbsent_console (h : s.present .console = true) (cause : AbsentCause) :
    s.becomeAbsent .console cause = s.markedAbsent .console cause := if_pos h

theorem State.parkLooks_keeps (m : State) (bs : List Bank) : (∀ l, (m.parkLooks bs).link l = m.link l) ∧
    (m.parkLooks bs).settings = m.settings ∧ (m.parkLooks bs).slotMap = m.slotMap ∧
    (m.parkLooks bs).clock = m.clock ∧ (m.parkLooks bs).lots = m.lots ∧ (m.parkLooks bs).line = m.line := by
  rw [State.parkLooks_frame]
  exact ⟨fun _ => rfl, rfl, rfl, rfl, rfl, rfl⟩

/-- What a break leaves of the link, and of the records that no absence touches (R150). -/
structure Silenced (s t : State) (l : Link) : Prop where
  link : LinkUnit.Noticed 2 { s.link l with assembly := none, buffer := [], queue := [], presence := none, inBreak := true }
    (t.link l)
  keeps : t.settings = s.settings ∧ t.slotMap = s.slotMap ∧ t.clock = s.clock ∧ t.lots = s.lots ∧ t.line = s.line

theorem State.silenced_link (s : State) (l : Link) : (s.silenced l).link l =
    { s.link l with assembly := none, buffer := [], queue := [], inBreak := true } := State.modLink_link_same s l _

theorem State.silenced_present (s : State) (l : Link) : (s.silenced l).present l = s.present l := by
  rw [State.present, State.silenced_link]
  rfl

theorem Silenced.of_absent (h : s.present l = false) : Silenced s (s.silenced l) l := by
  refine ⟨⟨[], Nat.zero_le _, ?_⟩, rfl, rfl, rfl, rfl, rfl⟩
  rw [State.present, Option.isSome_eq_false_iff, Option.isNone_iff_eq_none] at h
  rw [State.silenced_link, ← h]
  rfl

/-- A station other than the Console's that becomes ABSENT leaves its link without a message. -/
theorem State.markedAbsent_silenced (h : l ≠ .console) (cause : AbsentCause) :
    LinkUnit.Noticed 0 { s.link l with assembly := none, buffer := [], queue := [], presence := none, inBreak := true }
      (((s.silenced l).markedAbsent l cause).link l) := by
  refine ⟨[], le_rfl, ?_⟩
  rw [State.markedAbsent_link h, State.silenced_link]
  rfl

theorem Silenced.becomeAbsent (s : State) (l : Link) : Silenced s ((s.silenced l).becomeAbsent l .lineBreak) l := by
  cases hp : s.present l with
  | false =>
    rw [State.becomeAbsent_of_absent ((s.silenced_present l).trans hp)]
    exact .of_absent hp
  | true =>
    have hp' := (s.silenced_present l).trans hp
    cases l with
    | fill =>
      obtain ⟨hlink, hkeeps⟩ := ((s.silenced .fill).markedAbsent .fill .lineBreak).parkLooks_keeps allBanks
      rw [State.becomeAbsent_fill hp']
      refine ⟨?_, hkeeps⟩
      rw [hlink]
      exact (State.markedAbsent_silenced (by decide) _).mono (Nat.zero_le _)
    | cut =>
      rw [State.becomeAbsent_cut hp']
      refine ⟨(State.markedAbsent_silenced (by decide) _).withdrawForAbsence, ?_⟩
      rw [(CutWork.withdrawForAbsence _).frame]
      exact ⟨rfl, rfl, rfl, rfl, rfl⟩
    | press =>
      rw [State.becomeAbsent_press hp']
      exact ⟨(State.markedAbsent_silenced (by decide) _).mono (Nat.zero_le _), rfl, rfl, rfl, rfl, rfl⟩
    | console =>
      rw [State.becomeAbsent_console hp']
      refine ⟨?_, rfl, rfl, rfl, rfl, rfl⟩
      have hq : LinkUnit.Noticed 0 { s.link .console with
          assembly := none, buffer := [], queue := [], presence := none, inBreak := true }
          (((s.silenced .console).modLink .console fun k => { k with presence := none }).link .console) := by
        refine ⟨[], le_rfl, ?_⟩
        rw [State.modLink_link_same, State.silenced_link]
        rfl
      rw [State.markedAbsent, State.raise_link_same]
      exact (hq.raise (by decide) _).mono (by decide)

/-- Settles O20: a break empties the link first, so that what the absence raises on it finds room behind the emptying. -/
theorem breakEmptiesLink : Obligations.BreakEmptiesLink := by
  refine ⟨fun s l hr hb hu => ?_, fun s l hr hb hu => ⟨fun hp => ?_, fun n hp => ⟨fun hl => ?_, fun hl => ?_, fun hl => ?_⟩⟩,
    fun s => ⟨fun h => ?_, fun c c' v hcc hs hv hs' => ?_, fun later earlier v v' hle hlast hs hv hs' hv' => ?_⟩⟩
  · obtain ⟨⟨ns, -, hlink⟩, hkeeps⟩ := Silenced.becomeAbsent s l
    exact ⟨_, ns, exec_lineBreak hr hb hu, hlink, hkeeps⟩
  · rw [exec_lineBreak hr hb hu, State.becomeAbsent_of_absent]
    · rfl
    · rw [State.silenced_present, State.present, hp]
      rfl
  · have hpresent := (s.silenced_present l).trans (State.present_iff l |>.mpr ⟨n, hp⟩)
    subst hl
    rw [exec_lineBreak hr hb hu, State.becomeAbsent_fill hpresent]
    rfl
  · have hpresent := (s.silenced_present l).trans (State.present_iff l |>.mpr ⟨n, hp⟩)
    subst hl
    rw [exec_lineBreak hr hb hu, State.becomeAbsent_cut hpresent]
    rfl
  · have hpresent := (s.silenced_present l).trans (State.present_iff l |>.mpr ⟨n, hp⟩)
    subst hl
    rw [exec_lineBreak hr hb hu, State.becomeAbsent_press hpresent]
    rfl
  · obtain ⟨c, d, -, -, e⟩ := s.withdrawForAbsence_cases
    rw [e, State.bothWithdrawn_of_idle h]
  · obtain ⟨a, b, hab, -, e⟩ := s.withdrawForAbsence_cases
    rw [e]
    by_cases hca : c = a
    · subst hca
      rw [State.bothWithdrawn_of_first hab hs hv (by rwa [carriage_eq_of_ne hcc.symm hab.symm])]
      rfl
    · have hcb : c = b := carriage_eq_of_ne hab.symm hca
      subst hcb
      rw [State.bothWithdrawn_of_second hs hv (by rwa [carriage_eq_of_ne hcc.symm hab])]
      rfl
  · obtain ⟨a, b, hab, hlater, e⟩ := s.withdrawForAbsence_cases
    have hla := hlater later hlast
    subst hla
    have hbe : b = earlier := carriage_eq_of_ne hle.symm hab.symm
    subst hbe
    rw [e, State.bothWithdrawn_of_both hle hs hv hs' hv']
    exact State.orderReturned_at (State.orderReturned_clock _ _ _)

end Sys2Proof.Machine
end

section
/-! PROOFS. The Press station's reports of a dump (O39), and how lots leave the list (O40). -/

namespace Sys2Proof.Machine

variable {s : State} {l : Link} {edit : Bool} {f : Frame} {x : Lot} {v : Vat} {n received : Nat}

/-! ### Requests that name a lot -/

theorem lotOf?_of_range (low : 1 ≤ n) (high : n ≤ 4095) : lotOf? n = some n := by simp [lotOf?, rangeOf?, low, high]

theorem State.onLot_found {a : Asking} (rest : Lot → State) (h : s.findLot n = some x) :
    s.onLot a (some n) rest = rest x := by
  rw [State.onLot, State.inRange_some]
  simp only [h]

theorem State.onLot_missing {a : Asking} (rest : Lot → State) (h : s.findLot n = none) :
    s.onLot a (some n) rest = s.refuse a .tag := by
  rw [State.onLot, State.inRange_some]
  simp only [h]

theorem Frame.dumpDone_of_fields (low : 1 ≤ f.pairAt 0) (high : f.pairAt 0 ≤ 4095) (hr : f.pairAt 2 ≤ 40000) :
    f.dumpDone = some ⟨f.pairAt 0, f.pairAt 2⟩ := by simp [Frame.dumpDone, lotOf?_of_range low high, rangeOf?, hr]

/-! ### DUMP STARTED and DUMP REFUSED -/

section Named

variable (low : 1 ≤ f.pairAt 0) (high : f.pairAt 0 ≤ 4095)
include low high

theorem exec_dumpStarted (ha : Asks s l edit .dumpStarted f) (hx : s.findLot (f.pairAt 0) = some x) :
    exec (.dumpStarted l edit) s = .next (if x.state = .ordered ∧ s.line.state = .ordered
      then (s.answered l edit f .done []).startDump x else s.answered l edit f .stage []) := by
  refine (exec_of_asks ha).trans (congrArg _ ?_)
  change State.applyDumpStarted ⟨l, f⟩ (s.taken l edit) = _
  rw [State.applyDumpStarted, lotOf?_of_range low high, State.onLot_found (s := s.taken l edit) _ hx]
  cases h₁ : x.state <;> cases h₂ : s.line.state <;> simp [h₂, State.done_taken, State.refuse_taken]

theorem exec_dumpRefused (ha : Asks s l edit .dumpRefused f) (hx : s.findLot (f.pairAt 0) = some x) :
    exec (.dumpRefused l edit) s = .next (if x.state = .ordered ∧ s.line.state = .ordered
      then ((s.answered l edit f .done []).withdrawDump x .refused).lineLook else s.answered l edit f .stage []) := by
  refine (exec_of_asks ha).trans (congrArg _ ?_)
  change State.applyDumpRefused ⟨l, f⟩ (s.taken l edit) = _
  rw [State.applyDumpRefused, lotOf?_of_range low high, State.onLot_found (s := s.taken l edit) _ hx]
  cases h₁ : x.state <;> cases h₂ : s.line.state <;> simp [h₂, State.done_taken, State.refuse_taken]

end Named

/-! ### DUMP DONE -/

theorem exec_dumpDone (ha : Asks s l edit .dumpDone f) (hd : f.dumpDone = some ⟨n, received⟩)
    (hx : s.findLot n = some x) : exec (.dumpDone l edit) s = .next
      (if x.state = .running ∧ s.line.state = .running then (s.answered l edit f .done []).endDump x received
       else if x.state = .running ∧ s.line.state = .faulted then (s.answered l edit f .doneLate []).endDump x received
       else s.answered l edit f .stage []) := by
  refine (exec_of_asks ha).trans (congrArg _ ?_)
  change State.applyDumpDone ⟨l, f⟩ (s.taken l edit) = _
  rw [State.applyDumpDone, hd, State.inRange_some, State.onLot_found (s := s.taken l edit) _ hx]
  cases h₁ : x.state <;> cases h₂ : s.line.state <;>
    simp [h₂, State.done_taken, State.answer_taken, State.refuse_taken]

theorem State.modLine_congr {g h : LineRecord → LineRecord} (e : g s.line = h s.line) : s.modLine g = s.modLine h := by
  rw [State.modLine, State.modLine, e]

theorem State.finishLot_window (s : State) (x : Lot) (received : Nat) : (s.finishLot x received).window = s.window := by
  unfold State.finishLot State.raiseShort
  split
  · rfl
  · split <;> rfl

/-- The end of a dump, by what it makes of the line's record (R128). -/
theorem State.endDump_eq {g : LineRecord → LineRecord}
    (h : (if s.line.state = .running then s.line.released.freed s.clock else s.line.released) = g s.line) :
    s.endDump x received = ({ (s.modLine g).finishLot x received with
      window := joinWindow s.window ⟨x.number, x.early⟩ }.queueWash x.vat).lineLook := by
  have hline : s.modLine (fun k => if k.state = .running then k.released.freed s.clock else k.released) = s.modLine g :=
    State.modLine_congr h
  unfold State.endDump
  rw [hline]
  dsimp only
  rw [State.finishLot_window]
  rfl

theorem isShort_iff {tolerance expected received : Nat} : isShort tolerance expected received = true ↔
    (received ≤ expected ∧ tolerance * expected < (expected - received) * 100) ∨
    (expected ≤ received ∧ tolerance * expected < (received - expected) * 100) := by
  rw [isShort, decide_eq_true_eq]
  generalize tolerance * expected = allowed
  omega

theorem joinWindow_of_room {w : List CompletedDump} (h : w.length < 8) (d : CompletedDump) : joinWindow w d = w ++ [d] :=
  if_neg (by rw [List.length_append]; exact Nat.not_lt.mpr (Nat.succ_le_of_lt h))

theorem joinWindow_of_full {w rest : List CompletedDump} {y : CompletedDump} (hw : w = y :: rest) (h : w.length = 8)
    (d : CompletedDump) : joinWindow w d = rest ++ [d] := by
  refine (if_pos ?_).trans ?_
  · rw [List.length_append, h]
    exact Nat.lt_succ_self 8
  · rw [hw]
    rfl

/-- A number that no lot of the list has is answered TAG (R123). -/
theorem exec_dump_missing {r : Request} (hr : r = .dumpStarted ∨ r = .dumpDone ∨ r = .dumpRefused)
    (ha : Asks s l edit r f) (hf : fieldsInRange s.settings r f = true) (hx : s.findLot (f.pairAt 0) = none) :
    exec (.ofRequest l edit r) s = .next (s.answered l edit f .tag []) := by
  refine (exec_of_asks ha).trans (congrArg _ ?_)
  rcases hr with rfl | rfl | rfl
  · obtain ⟨low, high⟩ : 1 ≤ f.pairAt 0 ∧ f.pairAt 0 ≤ 4095 := by simpa [fieldsInRange, within] using hf
    change State.applyDumpStarted ⟨l, f⟩ (s.taken l edit) = _
    rw [State.applyDumpStarted, lotOf?_of_range low high, State.onLot_missing (s := s.taken l edit) _ hx,
      State.refuse_taken]
  · obtain ⟨⟨low, high⟩, hr⟩ : (1 ≤ f.pairAt 0 ∧ f.pairAt 0 ≤ 4095) ∧ f.pairAt 2 ≤ 40000 := by
      simpa [fieldsInRange, within] using hf
    change State.applyDumpDone ⟨l, f⟩ (s.taken l edit) = _
    rw [State.applyDumpDone, Frame.dumpDone_of_fields low high hr, State.inRange_some,
      State.onLot_missing (s := s.taken l edit) _ hx, State.refuse_taken]
  · obtain ⟨low, high⟩ : 1 ≤ f.pairAt 0 ∧ f.pairAt 0 ≤ 4095 := by simpa [fieldsInRange, within] using hf
    change State.applyDumpRefused ⟨l, f⟩ (s.taken l edit) = _
    rw [State.applyDumpRefused, lotOf?_of_range low high, State.onLot_missing (s := s.taken l edit) _ hx,
      State.refuse_taken]

/-- Settles O39: the reports of a dump act on the lot and the line in their own states alone, and the end of a dump finishes
its lot, fills the window and washes its vat. -/
theorem dumpsStartAndEnd : Obligations.DumpsStartAndEnd := by
  refine ⟨fun s l edit f x ha low high hx hst hline => ?_,
    ⟨fun s l edit f x ha low high hr hx hst => ⟨fun hline => ?_, fun hline => ?_⟩, fun _ _ _ => isShort_iff⟩,
    fun s l edit f r hr ha hf => ⟨exec_dump_missing hr ha hf, fun x hx hno => ?_⟩,
    fun w d => ⟨fun h => joinWindow_of_room h d, fun y rest hw h => joinWindow_of_full hw h d⟩⟩
  · rw [exec_dumpStarted low high ha hx, if_pos ⟨hst, hline⟩]
    rfl
  · rw [exec_dumpDone ha (Frame.dumpDone_of_fields low high hr) hx, if_pos ⟨hst, hline⟩]
    exact congrArg _ (State.endDump_eq (s := s.answered l edit f .done []) (if_pos hline))
  · rw [exec_dumpDone ha (Frame.dumpDone_of_fields low high hr) hx, if_neg (by simp [hline]), if_pos ⟨hst, hline⟩]
    exact congrArg _ (State.endDump_eq (s := s.answered l edit f .doneLate []) (if_neg (by simp [hline])))
  · rcases hr with rfl | rfl | rfl
    · obtain ⟨low, high⟩ : 1 ≤ f.pairAt 0 ∧ f.pairAt 0 ≤ 4095 := by simpa [fieldsInRange, within] using hf
      refine (exec_dumpStarted low high ha hx).trans (congrArg _ (if_neg ?_))
      exact hno.elim (fun h => by cases h.1) And.right
    · obtain ⟨⟨low, high⟩, hr⟩ : (1 ≤ f.pairAt 0 ∧ f.pairAt 0 ≤ 4095) ∧ f.pairAt 2 ≤ 40000 := by
        simpa [fieldsInRange, within] using hf
      have hnot := hno.elim And.right fun h => absurd rfl h.1
      refine (exec_dumpDone ha (Frame.dumpDone_of_fields low high hr) hx).trans (congrArg _ ?_)
      rw [if_neg fun h => hnot ⟨h.1, .inl h.2⟩, if_neg fun h => hnot ⟨h.1, .inr h.2⟩]
    · obtain ⟨low, high⟩ : 1 ≤ f.pairAt 0 ∧ f.pairAt 0 ≤ 4095 := by simpa [fieldsInRange, within] using hf
      refine (exec_dumpRefused low high ha hx).trans (congrArg _ (if_neg ?_))
      exact hno.elim (fun h => by cases h.1) And.right

/-! ### LOT CLOSED and ABANDON LOT -/

theorem lotOf?_of_out (h : n = 0 ∨ 4095 < n) : lotOf? n = none := by
  simp only [lotOf?, rangeOf?]
  exact if_neg (by omega)

theorem State.onLot_range {a : Asking} (rest : Lot → State) (h : n = 0 ∨ 4095 < n) :
    s.onLot a (lotOf? n) rest = s.refuse a .range := by rw [State.onLot, lotOf?_of_out h, State.inRange_none]

section Lots

variable (low : 1 ≤ f.pairAt 0) (high : f.pairAt 0 ≤ 4095)
include low high

theorem exec_lotClosed (ha : Asks s l edit .lotClosed f) (hx : s.findLot (f.pairAt 0) = some x) :
    exec (.lotClosed l edit) s = .next (if x.state = .pressing
      then ((s.answered l edit f .done []).removeLot x.number).lineLook else s.answered l edit f .stage []) := by
  refine (exec_of_asks ha).trans (congrArg _ ?_)
  change State.applyLotClosed ⟨l, f⟩ (s.taken l edit) = _
  rw [State.applyLotClosed, lotOf?_of_range low high, State.onLot_found (s := s.taken l edit) _ hx]
  rfl

theorem exec_abandonLot (ha : Asks s l edit .abandonLot f) (hx : s.findLot (f.pairAt 0) = some x) :
    exec (.abandonLot l edit) s = .next
      (if s.line.state = .faulted ∧ s.line.current = some x.number ∧ x.state = .running
       then (s.answered l edit f .done []).abandon x else s.answered l edit f .stage []) := by
  refine (exec_of_asks ha).trans (congrArg _ ?_)
  change State.applyAbandonLot ⟨l, f⟩ (s.taken l edit) = _
  rw [State.applyAbandonLot, lotOf?_of_range low high, State.onLot_found (s := s.taken l edit) _ hx]
  rfl

end Lots

/-! ### Entries that return -/

theorem LotKind.entryKind_eq (k : LotKind) :
    k.entryKind = if k = LotKind.waste then EntryKind.waste else EntryKind.normal := by cases k <;> rfl

theorem State.returnDump_of_early {kind : EntryKind} (h : s.belongsLate v kind = false) (early : Bool) :
    s.returnDump v kind early = { s with routine := ⟨v, (s.vat v).slot, kind, early, s.clock⟩ :: s.routine } :=
  if_neg (by simp [h])

theorem State.returnDump_of_late {kind : EntryKind} (h : s.belongsLate v kind = true) (early : Bool) :
    s.returnDump v kind early = { s with lateList := ⟨v, (s.vat v).slot, kind, early, s.clock⟩ :: s.lateList } :=
  if_pos h

/-- Settles O40: a lot leaves the list closed, abandoned or withdrawn, and the entry of a withdrawn one returns to the list
that the clock now gives it. -/
theorem lotsLeaveTheList : Obligations.LotsLeaveTheList := by
  refine ⟨fun s l edit f => ⟨fun hout => ⟨fun ha => ?_, fun ha => ?_⟩, fun low high =>
      ⟨fun ha => ⟨fun hx => ?_, fun x hx => ⟨fun hst => ?_, fun hst => ?_⟩⟩,
        fun ha => ⟨fun hx => ?_, fun x hx => ⟨fun hline hcur hst => ?_, fun hno => ?_⟩⟩⟩⟩,
    fun s l edit f x ha low high hx hst hline => ?_,
    fun s v early => ⟨State.returnDump_of_early (State.belongsLate_of_early (.inl rfl)) early,
      fun h => State.returnDump_of_early (State.belongsLate_of_early (.inr h)) early,
      fun x hm hx => State.returnDump_of_late (State.belongsLate_of_late hm hx) early⟩,
    fun s v => rfl⟩
  · exact (exec_of_asks ha).trans (congrArg _ (State.onLot_range (s := s.taken l edit) (a := ⟨l, f⟩) _ hout))
  · exact (exec_of_asks ha).trans (congrArg _ (State.onLot_range (s := s.taken l edit) (a := ⟨l, f⟩) _ hout))
  · refine (exec_of_asks ha).trans (congrArg _ ?_)
    change State.applyLotClosed ⟨l, f⟩ (s.taken l edit) = _
    rw [State.applyLotClosed, lotOf?_of_range low high, State.onLot_missing (s := s.taken l edit) _ hx,
      State.refuse_taken]
  · rw [exec_lotClosed low high ha hx, if_pos hst]
    rfl
  · rw [exec_lotClosed low high ha hx, if_neg hst]
  · refine (exec_of_asks ha).trans (congrArg _ ?_)
    change State.applyAbandonLot ⟨l, f⟩ (s.taken l edit) = _
    rw [State.applyAbandonLot, lotOf?_of_range low high, State.onLot_missing (s := s.taken l edit) _ hx,
      State.refuse_taken]
  · rw [exec_abandonLot low high ha hx, if_pos ⟨hline, hcur, hst⟩]
    rfl
  · rw [exec_abandonLot low high ha hx, if_neg hno]
  · rw [exec_dumpRefused low high ha hx, if_pos ⟨hst, hline⟩, State.withdrawDump, LotKind.entryKind_eq]
    rfl

end Sys2Proof.Machine
end

section
/-! PROOFS. SET of a settings item (O49): the store after it, and what the owner of the item then does. -/

namespace Sys2Proof.Machine

variable {s : State} {l l' : Link} {b : Bank} {edit : Bool} {f : Frame} {i j : Item} {v : Nat} {cause : AbsentCause}

/-! ### The store -/

theorem Settings.get_put_same (t : Settings) (i : Item) (v : Nat) : (t.put i v).get i = v := by
  cases i with
  | firmMin c | firmMax c | healMin c | healMax c => simp [Settings.put, Settings.get, Settings.timesOf_modClass]
  | reachLow c | reachHigh c => simp [Settings.put, Settings.get, Settings.reachOf_modReach]
  | zoneEnd b => simp [Settings.put, Settings.get, Settings.zoneEnd_set]
  | _ => rfl

/-- A class item after the times of a class are changed, the field that it reads staying unless the class is another. -/
theorem Settings.timesOf_modClass_field (t : Settings) {c d : RecipeClass} {f : ClassTimes → ClassTimes}
    (field : ClassTimes → Nat) (h : d ≠ c ∨ ∀ x, field (f x) = field x) :
    field ((t.modClass c f).timesOf d) = field (t.timesOf d) := by
  rw [Settings.timesOf_modClass]
  split
  · rename_i e
    subst e
    exact h.resolve_left (fun hn => hn rfl) _
  · rfl

theorem Settings.reachOf_modReach_field (t : Settings) {c d : Carriage} {f : Reach → Reach}
    (field : Reach → Nat) (h : d ≠ c ∨ ∀ x, field (f x) = field x) :
    field ((t.modReach c f).reachOf d) = field (t.reachOf d) := by
  rw [Settings.reachOf_modReach]
  split
  · rename_i e
    subst e
    exact h.resolve_left (fun hn => hn rfl) _
  · rfl

/-- A class item reads its own field of its own class: no other item is changed with it. -/
theorem Settings.get_modClass (t : Settings) {c : RecipeClass} {f : ClassTimes → ClassTimes}
    (h₁ : (∀ d, j = .firmMin d → d ≠ c) ∨ ∀ x, (f x).firmMin = x.firmMin)
    (h₂ : (∀ d, j = .firmMax d → d ≠ c) ∨ ∀ x, (f x).firmMax = x.firmMax)
    (h₃ : (∀ d, j = .healMin d → d ≠ c) ∨ ∀ x, (f x).healMin = x.healMin)
    (h₄ : (∀ d, j = .healMax d → d ≠ c) ∨ ∀ x, (f x).healMax = x.healMax) :
    (t.modClass c f).get j = t.get j := by
  cases j with
  | firmMin d => exact t.timesOf_modClass_field ClassTimes.firmMin (h₁.imp_left fun h => h d rfl)
  | firmMax d => exact t.timesOf_modClass_field ClassTimes.firmMax (h₂.imp_left fun h => h d rfl)
  | healMin d => exact t.timesOf_modClass_field ClassTimes.healMin (h₃.imp_left fun h => h d rfl)
  | healMax d => exact t.timesOf_modClass_field ClassTimes.healMax (h₄.imp_left fun h => h d rfl)
  | _ => rfl

theorem Settings.get_modReach (t : Settings) {c : Carriage} {f : Reach → Reach}
    (h₁ : (∀ d, j = .reachLow d → d ≠ c) ∨ ∀ x, (f x).low = x.low)
    (h₂ : (∀ d, j = .reachHigh d → d ≠ c) ∨ ∀ x, (f x).high = x.high) :
    (t.modReach c f).get j = t.get j := by
  cases j with
  | reachLow d => exact t.reachOf_modReach_field Reach.low (h₁.imp_left fun h => h d rfl)
  | reachHigh d => exact t.reachOf_modReach_field Reach.high (h₂.imp_left fun h => h d rfl)
  | _ => rfl

theorem Settings.get_setZone (t : Settings) (h : j ≠ .zoneEnd b) :
    ({ t with zoneEnds := t.zoneEnds.set b v } : Settings).get j = t.get j := by
  cases j with
  | zoneEnd d => exact (t.zoneEnd_set b d v).trans (if_neg fun e => h (congrArg _ e))
  | _ => rfl

/-- A put changes no other item (R164). -/
theorem Settings.get_put_ne (t : Settings) (h : j ≠ i) : (t.put i v).get j = t.get j := by
  have stays {α : Type} {g : α → Nat} : ∀ x, g x = g x := fun _ => rfl
  cases i with
  | firmMin c => exact t.get_modClass (.inl fun _ hj e => h (e ▸ hj)) (.inr stays) (.inr stays) (.inr stays)
  | firmMax c => exact t.get_modClass (.inr stays) (.inl fun _ hj e => h (e ▸ hj)) (.inr stays) (.inr stays)
  | healMin c => exact t.get_modClass (.inr stays) (.inr stays) (.inl fun _ hj e => h (e ▸ hj)) (.inr stays)
  | healMax c => exact t.get_modClass (.inr stays) (.inr stays) (.inr stays) (.inl fun _ hj e => h (e ▸ hj))
  | reachLow c => exact t.get_modReach (.inl fun _ hj e => h (e ▸ hj)) (.inr stays)
  | reachHigh c => exact t.get_modReach (.inr stays) (.inl fun _ hj e => h (e ▸ hj))
  | zoneEnd b => exact t.get_setZone h
  | _ => cases j <;> trivial

/-! ### The request -/

/-- An asked SET of an item: the range check, BUSY, and the effect, in that order (R164). -/
theorem exec_set (ha : Asks s l edit .set f) (hi : itemOf? (f.byteAt 0) = some i) : exec (.set l edit) s = .next
    (if !s.settings.allows i (f.pairAt 1) then s.answered l edit f .range []
     else if s.busy i then s.answered l edit f .busy []
     else (s.answered l edit f .done [.one (f.byteAt 0), .two (f.pairAt 1)]).setItem i (f.pairAt 1)) := by
  refine (exec_of_asks ha).trans (congrArg _ ?_)
  show State.applySet ⟨l, f⟩ (s.taken l edit) = _
  rw [State.applySet, hi]
  have hb : (s.taken l edit).busy i = s.busy i := by cases i <;> rfl
  show (if !s.settings.allows i (f.pairAt 1) then _ else if (s.taken l edit).busy i then _ else _) = _
  rw [hb]
  rfl

theorem State.setItem_of_same (h : s.settings.get i = v) (hi : i ≠ .rinseInterval) : s.setItem i v = s := if_pos ⟨h, hi⟩

theorem State.setItem_of_new (h : s.settings.get i ≠ v ∨ i = .rinseInterval) :
    s.setItem i v = State.actOnSet { s with settings := s.settings.put i v } i :=
  if_neg fun hc => h.elim (fun h => h hc.1) hc.2

/-! ### The urgency margin and the rinse interval -/

theorem State.marginSet_of_early (h : ∀ e ∈ s.openList, s.urgencyReached e = false) : s.marginSet = s :=
  if_neg (by simpa using h)

theorem State.marginSet_of_reached (h : ∃ e ∈ s.openList, s.urgencyReached e = true) :
    s.marginSet = s.moveAllUrgent.cutLook := if_pos (List.any_eq_true.mpr h)

theorem State.rinseIntervalSet_bank (s : State) (b : Bank) :
    s.rinseIntervalSet.bank b = { s.bank b with rinseCount := 0 } := by
  simp [State.rinseIntervalSet, State.mapBanks, State.bank]

/-! ### The path-open limit (R63) -/

theorem State.openPathDue_iff : s.openPathDue b = true ↔
    (s.bank b).state = .opened ∧ ∃ n, (s.bank b).pathOpen = some n ∧ s.settings.pathOpenLimit * 60 ≤ n := by
  rw [State.openPathDue, Bool.and_eq_true, decide_eq_true_eq]
  refine and_congr_right fun h => ?_
  simp only [State.pathLimitDue, h]
  cases (s.bank b).pathOpen <;> simp

theorem filter_eq_nil {α : Type} {p : α → Bool} (h : ∀ x, p x = false) (m : List α) : m.filter p = [] :=
  List.filter_eq_nil_iff.mpr fun x _ => by simp [h x]

theorem filter_allBanks {p : Bank → Bool} (h : ∀ x, p x = decide (x = b)) : allBanks.filter p = [b] := by
  rw [funext h]
  clear h
  revert b
  decide

theorem State.pathLimitSet_bank (s : State) (b : Bank) :
    s.pathLimitSet.bank b = if s.openPathDue b then (s.expirePath b).bank b else s.bank b := by
  obtain ⟨hdue, hnot, -⟩ := OwnAct.expirePath.forEachFreely b s (allBanks_nodup.filter s.openPathDue)
  split
  · rename_i h
    exact hdue (List.mem_filter.mpr ⟨mem_allBanks b, h⟩)
  · rename_i h
    exact hnot fun hm => h (List.mem_filter.mp hm).2

theorem State.pathLimitSet_vats (s : State) : s.pathLimitSet.vats = s.vats :=
  State.forEachFreely_keeps (fun t => t.vats = s.vats) s _ _ rfl (fun _ => rfl)
    fun x _ t h => (t.expirePath_vats x).trans h

/-! ### The park delay (R84, R87) -/

theorem State.parkBanks_frame (m : List Bank) :
    ∀ s : State, m.foldl State.parkBank s = { s with banks := (m.foldl State.parkBank s).banks } := by
  induction m with
  | nil => exact fun _ => rfl
  | cons x xs ih =>
    intro s
    rw [List.foldl_cons, ih (s.parkBank x)]
    rfl

theorem State.parkDelaySet_frame (s : State) : s.parkDelaySet = { s with banks := s.parkDelaySet.banks } := by
  rw [State.parkDelaySet, State.parkBanks_frame, State.parkLooks_frame]

theorem State.parkBanks_bank (s : State) {m : List Bank} (hn : m.Nodup) (b : Bank) :
    (m.foldl State.parkBank s).bank b = if b ∈ m then (s.parkBank b).bank b else s.bank b := by
  obtain ⟨hin, hout, -⟩ := OwnAct.parkBank.fold b s m hn s (.refl b s)
  split
  · rename_i h
    exact hin h
  · rename_i h
    exact hout h

/-- A bank's record after a SET of the park delay: its look, and its parking if its timer has then reached the delay. -/
theorem State.parkDelaySet_bank (s : State) (b : Bank) : s.parkDelaySet.bank b =
    if (s.parkLook b).parkDue b then ((s.parkLook b).parkBank b).bank b else (s.parkLook b).bank b := by
  have hlook := (s.parkLooks_bank allBanks_nodup b).1 (mem_allBanks b)
  have hall : (s.parkLooks allBanks).settings = s.settings := by rw [State.parkLooks_frame]
  have hone : (s.parkLook b).settings = s.settings := by
    unfold State.parkLook
    split <;> rfl
  have hdue : (s.parkLooks allBanks).parkDue b = (s.parkLook b).parkDue b := by
    simp only [State.parkDue, hlook, hall, hone]
  have hpark : ((s.parkLooks allBanks).parkBank b).bank b = ((s.parkLook b).parkBank b).bank b := by
    simp only [State.parkBank, State.modBank_bank_same, hlook, hall, hone]
  refine (State.parkBanks_bank _ (allBanks_nodup.filter _) b).trans (if_congr ?_ hpark hlook)
  rw [List.mem_filter, hdue]
  exact and_iff_right (mem_allBanks b)

theorem State.parkDelaySet_of_stopped
    (h : (s.bank b).state ≠ .ready ∨ s.hasEligible b = true ∨ s.settings.parkDelay = 0) :
    s.parkDelaySet.bank b = { s.bank b with park := none } := by
  rw [State.parkDelaySet_bank, State.parkLook_of_stopped h, if_neg, State.modBank_bank_same]
  simp [State.parkDue]

theorem State.parkDelaySet_of_waiting (hs : (s.bank b).state = .ready) (he : s.hasEligible b = false)
    (hd : s.settings.parkDelay ≠ 0) : s.parkDelaySet.bank b =
      if s.settings.parkDelay * 60 ≤ (s.bank b).park.getD 0 then
        { s.bank b with state := .parked, park := none, parkDrain := some (decide (s.settings.drainInterval ≠ 0)),
                        parkPulse := if s.settings.drainInterval = 0 then none
                          else some ⟨0, s.settings.drainInterval⟩ }
      else { s.bank b with park := some ((s.bank b).park.getD 0) } := by
  rw [State.parkDelaySet_bank, State.parkLook_of_waiting hs he hd]
  refine if_congr ?_ ?_ (State.modBank_bank_same ..)
  · simp [State.parkDue, hd]
  · rw [State.parkBank, State.modBank_bank_same, State.modBank_bank_same]
    rfl

/-! ### The presence timeout (R151) -/

theorem State.presenceDue_iff : s.presenceDue l = true ↔
    l ≠ .console ∧ ∃ n, (s.link l).presence = some n ∧ s.settings.presenceTimeout ≤ n := by
  unfold State.presenceDue
  cases (s.link l).presence <;> simp

theorem State.markedAbsent_presence (s : State) (l : Link) (cause : AbsentCause) (l' : Link) :
    ((s.markedAbsent l cause).link l').presence = if l' = l then none else (s.link l').presence := by
  obtain ⟨-, -, -, hp, -⟩ := (LinksGain.raise (s.modLink l fun k => { k with presence := none }) .console
    (.stationAbsent l cause) l').keeps
  rw [State.markedAbsent, hp]
  split
  · rename_i h
    rw [h, State.modLink_link_same]
  · rename_i h
    rw [State.modLink_link_ne _ _ h]

/-- What the block that reads a station's presence does changes no link but for the notices it raises. -/
theorem LinksGain.becomeAbsent (h : s.present l = true) (cause : AbsentCause) :
    LinksGain (s.markedAbsent l cause) (s.becomeAbsent l cause) := by
  cases l with
  | fill =>
    intro l'
    rw [State.becomeAbsent_fill h, (State.parkLooks_keeps _ allBanks).1 l']
    exact .refl _
  | cut =>
    rw [State.becomeAbsent_cut h]
    exact (CutWork.withdrawForAbsence _).links
  | press =>
    rw [State.becomeAbsent_press h]
    exact .refl _
  | console =>
    rw [State.becomeAbsent_console h]
    exact .refl _

theorem State.becomeAbsent_presence (s : State) (l : Link) (cause : AbsentCause) (l' : Link) :
    ((s.becomeAbsent l cause).link l').presence = if l' = l then none else (s.link l').presence := by
  cases h : s.present l with
  | true =>
    obtain ⟨-, -, -, hp, -⟩ := (LinksGain.becomeAbsent h cause l').keeps
    rw [hp, State.markedAbsent_presence]
  | false =>
    rw [State.becomeAbsent_of_absent h]
    split
    · rename_i e
      rw [State.present, Option.isSome_eq_false_iff, Option.isNone_iff_eq_none] at h
      rw [e, h]
    · rfl

theorem State.absences_presence (m : List Link) (l' : Link) : ∀ s : State,
    ((m.foldl (fun t l => t.becomeAbsent l cause) s).link l').presence =
      if l' ∈ m then none else (s.link l').presence := by
  induction m with
  | nil => exact fun _ => rfl
  | cons x xs ih =>
    intro s
    rw [List.foldl_cons, ih, State.becomeAbsent_presence]
    by_cases h : l' = x <;> simp [h]

theorem mem_allLinks (l : Link) : l ∈ allLinks := by cases l <;> decide

theorem filter_allLinks {p : Link → Bool} (h : ∀ x, p x = decide (x = l)) : allLinks.filter p = [l] := by
  rw [funext h]
  cases l <;> decide

theorem State.presenceSet_presence (s : State) (l : Link) : (s.presenceSet.link l).presence =
    if s.presenceDue l = true then none else (s.link l).presence := by
  have hdrawn : ((s.afterFreeOrder (allLinks.filter s.presenceDue)).link l).presence = (s.link l).presence := by
    unfold State.afterFreeOrder
    split <;> rfl
  rw [State.presenceSet, State.forEachFreely, State.absences_presence, hdrawn]
  refine if_congr ?_ rfl rfl
  rw [(s.inFreeOrder_perm _).mem_iff, List.mem_filter]
  exact and_iff_right (mem_allLinks l)

/-- Settles O49: a SET is checked, writes the one item of the store, and its owner then acts. -/
theorem setWritesTheStoreAndActs : Obligations.SetWritesTheStoreAndActs := by
  refine ⟨fun s l edit f i ha hi => ⟨fun hr => ?_, fun hr hb => ?_, fun hr hb => ⟨fun he hn => ?_, fun he => ?_⟩,
    s.settings.get_put_same i _, fun j hj => s.settings.get_put_ne hj⟩, fun s => ⟨State.marginSet_of_early,
    State.marginSet_of_reached, s.rinseIntervalSet_bank, fun _ => ⟨rfl, rfl⟩, fun i hi => ?_,
    fun _ => ⟨rfl, rfl, rfl, rfl⟩, fun _ => rfl⟩, fun s => ⟨⟨fun b => ?_, fun b hb => ?_, fun hb => ?_,
    s.pathLimitSet_vats⟩, ⟨fun b => ?_, s.parkDelaySet_frame⟩, fun l hl => ?_, fun hl => ?_, s.presenceSet_presence,
    fun l => State.presenceDue_iff⟩⟩
  · rw [exec_set ha hi, if_pos (by simp [hr])]
  · rw [exec_set ha hi, if_neg (by simp [hr]), if_pos hb]
  · rw [exec_set ha hi, if_neg (by simp [hr]), if_neg (by simp [hb]), State.setItem_of_same (s := s.answered ..) he hn]
  · rw [exec_set ha hi, if_neg (by simp [hr]), if_neg (by simp [hb]), State.setItem_of_new (s := s.answered ..) he,
      State.answered_settings]
  · fin_cases hi <;> rfl
  · exact (s.pathLimitSet_bank b).trans (if_congr State.openPathDue_iff rfl rfl)
  · show s.forEachFreely _ _ = _
    rw [filter_allBanks hb, State.forEachFreely_one]
  · show s.forEachFreely _ _ = _
    rw [filter_eq_nil hb, State.forEachFreely_nil]
  · show s.parkDelaySet.bank b = _
    split
    · rename_i h
      obtain ⟨hs, he, hd⟩ := h
      exact State.parkDelaySet_of_waiting hs (State.hasEligible_false_iff.mpr he) hd
    · rename_i h
      refine State.parkDelaySet_of_stopped ?_
      rw [← State.hasEligible_false_iff] at h
      by_contra hc
      simp only [not_or, ne_eq, not_not, Bool.not_eq_true] at hc
      exact h hc
  · show s.forEachFreely _ _ = _
    rw [filter_allLinks hl, State.forEachFreely_one]
  · show s.forEachFreely _ _ = _
    rw [filter_eq_nil hl, State.forEachFreely_nil]

end Sys2Proof.Machine
end

section
/-! PROOFS. The twelve shapes of a sound bank record. -/

namespace Sys2Proof.Machine

namespace BankRecord

variable {k : BankRecord} {c : Current}

/-- A record in state `st` with every field absent that some state needs; its list, its rinse counter and its marks are as
they are in `k`. -/
def bare (k : BankRecord) (st : BankState) : BankRecord :=
  { k with state := st, path := none, current := none, closeCause := none, closePhase := none, travel := none,
           drain := none, pathOpen := none, noFlow := none, faultCause := none, startPhase := none, flushesDone := none,
           flush := none, rinse := none, park := none, parkDrain := none, parkPulse := none }

/-- The shapes that R50, R52 and R73 give a bank record: a bare one with the fields its state and phase need. -/
inductive Shape : BankRecord → Prop
  | prove (k : BankRecord) (flushes : Nat) (travel : Timer) :
      Shape { k.bare .start with startPhase := some .prove, flushesDone := some flushes, travel := some travel }
  | flushing (k : BankRecord) (flushes : Nat) (flush : Timer) :
      Shape { k.bare .start with startPhase := some .flush, flushesDone := some flushes, flush := some flush }
  | priming (k : BankRecord) (flush : Timer) : Shape { k.bare .priming with flush := some flush }
  | ready (k : BankRecord) (park : Option Nat) : Shape { k.bare .ready with park := park }
  | opening (k : BankRecord) (c : Current) (travel : Timer) (phase : c.phase = .openingPath) :
      Shape { k.bare .opening with path := some c.entry.vat, current := some c, travel := some travel }
  | feeding (k : BankRecord) (c : Current) (pathOpen : Nat) (noFlow : Option Timer) (phase : c.phase ≠ .openingPath)
      (cancel : c.cancel = false) (watched : noFlow.isSome ↔ c.watched) :
      Shape { k.bare .opened with path := some c.entry.vat, current := some c, pathOpen := some pathOpen,
                                  noFlow := noFlow }
  | waiting (k : BankRecord) (path : Vat) (pathOpen : Nat) :
      Shape { k.bare .opened with path := some path, pathOpen := some pathOpen }
  | closing (k : BankRecord) (path : Vat) (cause : CloseCause) (travel : Timer) :
      Shape { k.bare .closing with path := some path, closeCause := some cause, closePhase := some .travel,
                                   travel := some travel }
  | draining (k : BankRecord) (cause : CloseCause) (drain : Timer) :
      Shape { k.bare .closing with closeCause := some cause, closePhase := some .drain, drain := some drain }
  | rinsing (k : BankRecord) (rinse : Timer) : Shape { k.bare .rinsing with rinse := some rinse }
  | parked (k : BankRecord) (pulse : Option Timer) :
      Shape { k.bare .parked with parkDrain := some pulse.isSome, parkPulse := pulse }
  | faulted (k : BankRecord) (cause : BankFaultCause) : Shape { k.bare .faulted with faultCause := some cause }

theorem Shape.sound (h : k.Shape) : k.Sound := by
  cases h <;> constructor <;> simp_all [bare, onPath, Current.watched]

theorem Shape.of_eq {j : BankRecord} (h : j.Shape) (e : k = j) : k.Shape := e ▸ h

theorem Sound.shape (h : k.Sound) : k.Shape := by
  obtain ⟨path, idle, opening, opened, closeCause, closePhase, travel, drain, pathOpen, noFlow, faultCause, startPhase,
    flushesDone, flush, rinse, park, parkDrain, parkPulse⟩ := h
  cases hs : k.state
  all_goals
    simp [hs, onPath] at path idle opening opened closeCause closePhase travel drain pathOpen
    simp [hs] at faultCause startPhase flushesDone flush rinse park parkDrain
  case start =>
    obtain ⟨flushes, hd⟩ := Option.isSome_iff_exists.mp flushesDone
    obtain ⟨phase, hp⟩ := Option.isSome_iff_exists.mp startPhase
    cases phase with
    | prove =>
      obtain ⟨n, hn⟩ := Option.isSome_iff_exists.mp (travel.mpr hp)
      exact .of_eq (.prove k flushes n) (by cases k; simp_all [bare])
    | flush =>
      obtain ⟨n, hn⟩ := Option.isSome_iff_exists.mp (flush.mpr hp)
      exact .of_eq (.flushing k flushes n) (by cases k; simp_all [bare])
  case priming =>
    obtain ⟨n, hn⟩ := Option.isSome_iff_exists.mp flush
    exact .of_eq (.priming k n) (by cases k; simp_all [bare])
  case ready => exact .of_eq (.ready k k.park) (by cases k; simp_all [bare])
  case opening =>
    obtain ⟨c, hc, hp, hv⟩ := opening
    obtain ⟨n, hn⟩ := Option.isSome_iff_exists.mp travel
    exact .of_eq (.opening k c n hp) (by cases k; simp_all [bare, Current.watched])
  case opened =>
    obtain ⟨n, hn⟩ := Option.isSome_iff_exists.mp pathOpen
    cases hc : k.current with
    | some c =>
      obtain ⟨hp, hx, hv⟩ := opened c hc
      exact .of_eq (.feeding k c n k.noFlow hp hx (by simp [noFlow, hc])) (by cases k; simp_all [bare])
    | none =>
      obtain ⟨v, hv⟩ := Option.isSome_iff_exists.mp path
      exact .of_eq (.waiting k v n) (by cases k; simp_all [bare])
  case closing =>
    obtain ⟨x, hx⟩ := Option.isSome_iff_exists.mp closeCause
    obtain ⟨phase, hp⟩ := Option.isSome_iff_exists.mp closePhase
    cases phase with
    | travel =>
      obtain ⟨v, hv⟩ := Option.isSome_iff_exists.mp (path.mpr hp)
      obtain ⟨n, hn⟩ := Option.isSome_iff_exists.mp (travel.mpr (.inl hp))
      exact .of_eq (.closing k v x n) (by cases k; simp_all [bare])
    | drain =>
      obtain ⟨n, hn⟩ := Option.isSome_iff_exists.mp (drain.mpr hp)
      exact .of_eq (.draining k x n) (by cases k; simp_all [bare])
  case rinsing =>
    obtain ⟨n, hn⟩ := Option.isSome_iff_exists.mp rinse
    exact .of_eq (.rinsing k n) (by cases k; simp_all [bare])
  case parked =>
    have hd : k.parkDrain = some k.parkPulse.isSome := by
      obtain ⟨x, hx⟩ := Option.isSome_iff_exists.mp parkDrain
      cases x <;> simp_all
    exact .of_eq (.parked k k.parkPulse) (by cases k; simp_all [bare])
  case faulted =>
    obtain ⟨x, hx⟩ := Option.isSome_iff_exists.mp faultCause
    exact .of_eq (.faulted k x) (by cases k; simp_all [bare])

theorem sound_iff_shape : k.Sound ↔ k.Shape := ⟨Sound.shape, Shape.sound⟩

/-! ### Fields that no shape reads, and those of one state -/

/-- The list, the rinse counter and the rinse marks are free. -/
theorem Sound.withFree (h : k.Sound) (l : List Transfer) (n : Nat) (pending overdue : Bool) :
    { k with list := l, rinseCount := n, rinsePending := pending, rinseOverdue := overdue }.Sound := { h with }

theorem Sound.withPark (h : k.Sound) {p : Option Nat} (hp : p.isSome → k.state = .ready) :
    { k with park := p }.Sound := { h with park := hp }

theorem Sound.withCause (h : k.Sound) (hs : k.state = .closing) (cause : CloseCause) :
    { k with closeCause := some cause }.Sound := { h with closeCause := by simp [hs] }

/-- The park drain ends (R84). -/
theorem Sound.dried (h : k.Sound) (hp : k.parkPulse.isSome) :
    { k with parkDrain := some false, parkPulse := none }.Sound :=
  { h with
    parkDrain := by simp [← h.parkDrain, h.parkPulse.mp hp]
    parkPulse := by simp }

/-- A second of the make clock (R173). -/
theorem Sound.tick (h : k.Sound) (rinseCounts : Bool) : (k.tick rinseCounts).Sound := by
  constructor <;> simp only [BankRecord.tick, Option.isSome_map]
  exacts [h.path, h.idle, h.opening, h.opened, h.closeCause, h.closePhase, h.travel, h.drain, h.pathOpen, h.noFlow,
    h.faultCause, h.startPhase, h.flushesDone, h.flush, h.rinse, h.park, h.parkDrain, h.parkPulse]

/-! ### Takes, transfers and closes (R52, R55 to R58) -/

theorem Sound.take (h : k.Sound) (hs : k.state = .ready) (e : Transfer) (rest : List Transfer) (n : Timer) :
    { k with state := .opening, path := some e.vat, current := some ⟨e, .openingPath, false⟩, list := rest,
             travel := some n, park := none }.Sound := by
  cases h.shape with
  | ready k => exact (Shape.opening { k with list := rest } ⟨e, .openingPath, false⟩ n rfl).sound
  | _ => cases hs

/-- An OPEN bank without a transfer feeds along its path (R57). -/
theorem Sound.hit (h : k.Sound) (hs : k.state = .opened) (hc : k.current = none) {e : Transfer}
    (hv : k.path = some e.vat) (rest : List Transfer) (n : Timer) :
    { k with current := some ⟨e, .running, false⟩, list := rest, noFlow := some n }.Sound := by
  cases h.shape with
  | waiting k v p =>
    cases hv
    exact (Shape.feeding { k with list := rest } ⟨e, .running, false⟩ p (some n) (fun h => by cases h) rfl
      (by simp [Current.watched])).sound
  | feeding => cases hc
  | _ => cases hs

/-- The path has opened for a transfer that is wanted (R56). -/
theorem Sound.opens (h : k.Sound) (hs : k.state = .opening) (hc : k.current = some c) (hx : c.cancel = false) (n : Timer) :
    { k with state := .opened, travel := none, pathOpen := some 0, current := some { c with phase := .running },
             noFlow := some n }.Sound := by
  cases h.shape with
  | opening k =>
    cases hc
    exact (Shape.feeding k { c with phase := .running } 0 (some n) (fun h => by cases h) hx
      (by simp [Current.watched])).sound
  | _ => cases hs

/-- The path has opened for a transfer that is cancelled (R26, R56). -/
theorem Sound.openEmpty (h : k.Sound) (hs : k.state = .opening) :
    { k with state := .opened, travel := none, pathOpen := some 0, current := none }.Sound := by
  cases h.shape with
  | opening k c => exact (Shape.waiting k c.entry.vat 0).sound
  | _ => cases hs

/-- The cancel mark of a transfer whose path is not yet open (R26). -/
theorem Sound.cancelled (h : k.Sound) (hc : k.current = some c) (hp : c.phase = .openingPath) :
    { k with current := some { c with cancel := true } }.Sound := by
  cases h.shape with
  | opening k _ n =>
    cases hc
    exact (Shape.opening k { c with cancel := true } n hp).sound
  | feeding _ _ _ _ phase =>
    cases hc
    exact absurd hp phase
  | _ => cases hc

/-- The transfer of an OPEN bank ends, with the path left open (R59). -/
theorem Sound.endTransfer (h : k.Sound) (hs : k.state = .opened) :
    { k with current := none, noFlow := none }.Sound := by
  cases h.shape with
  | feeding k c n => exact (Shape.waiting k c.entry.vat n).sound
  | waiting k v n => exact (Shape.waiting k v n).sound
  | _ => cases hs

/-- The transfer of an OPEN bank goes on, metered or in another phase (R59 to R61). -/
theorem Sound.feed (h : k.Sound) (hs : k.state = .opened) (hc : k.current = some c) {c' : Current} {n : Option Timer}
    (hv : c'.entry.vat = c.entry.vat) (hp : c'.phase ≠ .openingPath) (hx : c'.cancel = c.cancel)
    (hn : n.isSome ↔ c'.watched) : { k with current := some c', noFlow := n }.Sound := by
  cases h.shape with
  | feeding k _ p _ _ cancel =>
    cases hc
    rw [← hv]
    exact (Shape.feeding k c' p n hp (hx.trans cancel) hn).sound
  | waiting => cases hc
  | _ => cases hs

/-- An OPEN bank without a transfer begins to close its path (R52, R58). -/
theorem Sound.close (h : k.Sound) (hs : k.state = .opened) (hc : k.current = none) (cause : CloseCause) (n : Timer)
    (p : Option StoppedPath) :
    { k with state := .closing, closeCause := some cause, closePhase := some .travel, travel := some n,
             pathOpen := none, stoppedPath := p }.Sound := by
  cases h.shape with
  | waiting k v => exact (Shape.closing { k with stoppedPath := p } v cause n).sound
  | feeding => cases hc
  | _ => cases hs

/-- PROVED is seen low in the TRAVEL phase (R58). -/
theorem Sound.beginDrain (h : k.Sound) (hs : k.state = .closing) (hp : k.closePhase = some .travel) (n : Timer) :
    { k with path := none, travel := none, stoppedPath := none, closePhase := some .drain, drain := some n }.Sound := by
  cases h.shape with
  | closing k _ x => exact (Shape.draining { k with stoppedPath := none } x n).sound
  | draining => cases hp
  | _ => cases hs

/-! ### READY, rinses, priming and parking (R79 to R85) -/

/-- The record of a bank that enters READY, before it looks (R58, R75, R80, R82). -/
def readied (k : BankRecord) : BankRecord :=
  { k with state := .ready, closeCause := none, closePhase := none, drain := none, startPhase := none,
           flushesDone := none, flush := none, rinse := none }

/-- What a bank ends is the last thing it does before READY: every field that `readied` leaves is absent already. -/
def Ends (k : BankRecord) : Prop := k.readied = k.bare .ready

theorem Ends.sound (h : k.Ends) : k.readied.Sound := h ▸ (Shape.ready k none).sound

/-- The drain of a close, its timer stopped, is the last thing before READY. -/
theorem Sound.ends_drain (h : k.Sound) (hd : k.drain.isSome) : { k with drain := none }.Ends := by
  cases h.shape with
  | draining => rfl
  | _ => cases hd

/-- A flush is the last thing before READY, in START and in PRIMING. -/
theorem Sound.ends_flush (h : k.Sound) (hf : k.flush.isSome) :
    { k with rinsePending := false, rinseOverdue := false }.Ends := by
  cases h.shape with
  | flushing => rfl
  | priming => rfl
  | _ => cases hf

theorem Sound.ends_rinse (h : k.Sound) (hr : k.rinse.isSome) : k.Ends := by
  cases h.shape with
  | rinsing => rfl
  | _ => cases hr

/-- A READY bank takes a rinse (R80). -/
theorem Sound.rinse_ready (h : k.Sound) (hs : k.state = .ready) (n : Timer) :
    { k with state := .rinsing, rinsePending := false, rinseOverdue := false, rinse := some n, park := none,
             closeCause := none, closePhase := none }.Sound := by
  cases h.shape with
  | ready k => exact (Shape.rinsing { k with rinsePending := false, rinseOverdue := false } n).sound
  | _ => cases hs

/-- A close whose drain has ended goes on to a rinse (R58, R80). -/
theorem Sound.rinse_drained (h : k.Sound) (hd : k.drain.isSome) (n : Timer) :
    { k with drain := none, state := .rinsing, rinsePending := false, rinseOverdue := false, rinse := some n,
             park := none, closeCause := none, closePhase := none }.Sound := by
  cases h.shape with
  | draining k => exact (Shape.rinsing { k with rinsePending := false, rinseOverdue := false } n).sound
  | _ => cases hd

/-- A FAULTED or PARKED bank enters PRIMING (R68, R81, R85). -/
theorem Sound.prime (h : k.Sound) (hs : k.state = .faulted ∨ k.state = .parked) (n : Timer) :
    { k with state := .priming, faultCause := none, rinseCount := 0, flush := some n, park := none, parkDrain := none,
             parkPulse := none }.Sound := by
  cases h.shape with
  | faulted k => exact (Shape.priming { k with rinseCount := 0 } n).sound
  | parked k => exact (Shape.priming { k with rinseCount := 0 } n).sound
  | _ => rcases hs with hs | hs <;> cases hs

/-- A READY bank parks (R84). -/
theorem Sound.parked (h : k.Sound) (hs : k.state = .ready) (pulse : Option Timer) :
    { k with state := .parked, park := none, parkDrain := some pulse.isSome, parkPulse := pulse }.Sound := by
  cases h.shape with
  | ready k => exact (Shape.parked k pulse).sound
  | _ => cases hs

/-! ### The start sequence and faults (R67, R74, R75) -/

theorem Sound.beginFlushing (h : k.Sound) (hp : k.startPhase = some .prove) (n : Nat) : (k.beginFlushing n).Sound := by
  cases h.shape with
  | prove k flushes => exact (Shape.flushing k flushes ⟨0, n⟩).sound
  | flushing => cases hp
  | _ => cases hp

/-- The next flush of START (R75). -/
theorem Sound.nextFlush (h : k.Sound) (hs : k.state = .start) (hf : k.flush.isSome) (flushes : Nat) (n : Timer) :
    { k with flushesDone := some flushes, flush := some n }.Sound := by
  cases h.shape with
  | flushing k => exact (Shape.flushing k flushes n).sound
  | prove => cases hf
  | _ => cases hs

/-- A faulted record is sound, whatever it was (R67). -/
theorem Sound.faulted (k : BankRecord) (cause : BankFaultCause) : (k.faulted cause).Sound :=
  (Shape.faulted { k with stoppedPath := none } cause).sound

/-- A bank after a reset is sound, whatever PROVED is (R74). -/
theorem Sound.started (x : Settings) (proved : Bool) : (startedBank x proved).Sound := by
  unfold startedBank
  split
  · exact .reset _
  · exact (Sound.reset _).beginFlushing rfl _

end BankRecord
end Sys2Proof.Machine
end

section
/-! PROOFS. The banks' own work keeps every bank record sound. -/

namespace Sys2Proof.Machine

variable {s t : State} {b : Bank} {c : Current}

/-! ### One bank's record -/

theorem BanksHold.of_banks (h : BanksHold s) (hb : t.banks = s.banks) : BanksHold t := by
  intro b
  have : t.bank b = s.bank b := by simp only [State.bank, hb]
  rw [this]
  exact h b

/-- The records of the other banks, and the one that an act writes. -/
theorem BanksHold.of_others (ho : ∀ b', b' ≠ b → (s.bank b').Sound) {f : BankRecord → BankRecord}
    (hf : (f (s.bank b)).Sound) : BanksHold (s.modBank b f) := by
  intro b'
  by_cases hb : b' = b
  · subst hb
    rwa [State.modBank_bank_same]
  · rw [State.modBank_bank_ne _ _ hb]
    exact ho b' hb

theorem BanksHold.modBank (h : BanksHold s) {f : BankRecord → BankRecord} (hf : (f (s.bank b)).Sound) :
    BanksHold (s.modBank b f) := .of_others (fun b' _ => h b') hf

theorem BanksHold.raise (h : BanksHold s) (l : Link) (n : Notice) : BanksHold (s.raise l n) := h

/-! ### Takes, closes and READY -/

theorem BanksHold.parkLook (h : BanksHold s) (b : Bank) : BanksHold (s.parkLook b) := by
  unfold State.parkLook
  split
  · rename_i hc
    simp only [Bool.and_eq_true, decide_eq_true_eq] at hc
    exact h.modBank ((h b).withPark fun _ => hc.1.1)
  · exact h.modBank ((h b).withPark fun hp => by cases hp)

theorem State.endFill_bank (s : State) (v : Vat) : (s.endFill v).bank = s.bank := by
  unfold State.endFill
  split <;> rfl

theorem BanksHold.endFill (h : BanksHold s) (v : Vat) : BanksHold (s.endFill v) := fun b => by
  rw [State.endFill_bank]
  exact h b

theorem BanksHold.reportTake (h : BanksHold s) (b : Bank) (e : Transfer) : BanksHold (s.reportTake b e) := fun b' => by
  rw [State.reportTake_bank]
  exact h b'

theorem BanksHold.beginClose (h : BanksHold s) (hs : (s.bank b).state = .opened) (hc : (s.bank b).current = none)
    (cause : CloseCause) : BanksHold (s.beginClose b cause) := h.modBank ((h b).close hs hc _ _ _)

theorem BanksHold.bankLook (h : BanksHold s) (b : Bank) : BanksHold (s.bankLook b) := by
  unfold State.bankLook
  split
  · rename_i hm
    obtain ⟨-, hm⟩ := State.mayTake_iff.mp hm
    split
    · exact h
    · split_ifs with hready hpath
      · exact (h.modBank ((h b).take hready _ _ _)).reportTake b _
      · obtain ⟨hs, hc⟩ := hm.resolve_left hready
        exact (h.modBank ((h b).hit hs hc hpath _ _)).reportTake b _
      · obtain ⟨hs, hc⟩ := hm.resolve_left hready
        exact h.beginClose hs hc _
  · exact h

theorem BanksHold.takeRinse (h : BanksHold s) (hs : (s.bank b).state = .ready) : BanksHold (s.takeRinse b) :=
  h.modBank ((h b).rinse_ready hs _)

/-- A bank enters READY when what it ends was the last thing before it. -/
theorem BanksHold.enterReady (ho : ∀ b', b' ≠ b → (s.bank b').Sound) (he : (s.bank b).Ends) :
    BanksHold (s.enterReady b) := by
  have ht : BanksHold (s.modBank b BankRecord.readied) := .of_others ho he.sound
  have hs : ((s.modBank b BankRecord.readied).bank b).state = .ready := by
    rw [State.modBank_bank_same]
    rfl
  unfold State.enterReady
  refine BanksHold.parkLook ?_ b
  split
  · exact ht.takeRinse hs
  · exact ht.bankLook b

theorem BanksHold.afterTransfer (h : BanksHold s) (hs : (s.bank b).state = .opened) (hc : (s.bank b).current = none) :
    BanksHold (s.afterTransfer b) := by
  unfold State.afterTransfer
  split
  · exact h.beginClose hs hc _
  · exact h.bankLook b

theorem BanksHold.actOnRinse (h : BanksHold s) (b : Bank) : BanksHold (s.actOnRinse b) := by
  unfold State.actOnRinse
  split
  · rename_i hs
    exact h.takeRinse hs
  · rename_i hs hc
    exact h.beginClose hs hc _
  · exact h

theorem BanksHold.endDrain (h : BanksHold s) (hd : (s.bank b).drain.isSome) : BanksHold (s.endDrain b) := by
  have hrinse : BanksHold ((s.modBank b fun k => { k with drain := none }).takeRinse b) := by
    rw [State.takeRinse, State.modBank_modBank]
    exact h.modBank ((h b).rinse_drained hd _)
  have hcause : (s.bank b).closeCause ≠ none := fun e => by
    have := (h b).closeCause.mpr ((h b).drain.mp hd).1
    rw [e] at this
    cases this
  unfold State.endDrain
  split
  · refine BanksHold.enterReady (fun b' hb => ?_) ?_
    · rw [State.modBank_bank_ne _ _ hb]
      exact h b'
    · rw [State.modBank_bank_same]
      exact (h b).ends_drain hd
  · exact hrinse
  · exact hrinse
  · contradiction

theorem BanksHold.beginDrain (h : BanksHold s) (hs : (s.bank b).state = .closing)
    (hp : (s.bank b).closePhase = some .travel) : BanksHold (s.beginDrain b) := by
  unfold State.beginDrain
  dsimp only
  split
  · refine BanksHold.endDrain (h.modBank ((h b).beginDrain hs hp _)) ?_
    rw [State.modBank_bank_same]
    rfl
  · exact h.modBank ((h b).beginDrain hs hp _)

/-! ### Priming, parking and entries that join -/

theorem BanksHold.enterPriming (h : BanksHold s) (hs : (s.bank b).state = .faulted ∨ (s.bank b).state = .parked) :
    BanksHold (s.enterPriming b) := h.modBank ((h b).prime hs _)

theorem BanksHold.parkBank (h : BanksHold s) (hs : (s.bank b).state = .ready) : BanksHold (s.parkBank b) := by
  have hp := (h b).parked hs (if s.settings.drainInterval = 0 then none else some (.begin s.settings.drainInterval))
  refine h.modBank ?_
  by_cases hd : s.settings.drainInterval = 0 <;> simpa [hd] using hp

theorem BanksHold.withList (h : BanksHold s) (b : Bank) (l : BankRecord → List Transfer) :
    BanksHold (s.modBank b fun k => { k with list := l k }) := h.modBank ((h b).withFree _ _ _ _)

theorem BanksHold.joinTransfer (h : BanksHold s) (b : Bank) (e : Transfer) : BanksHold (s.joinTransfer b e) := by
  have ht := h.withList b fun k => k.list ++ [e]
  unfold State.joinTransfer
  dsimp only
  split
  · rename_i hp
    exact ht.enterPriming (.inr hp)
  · exact (ht.bankLook b).parkLook b

theorem BanksHold.queueWash (h : BanksHold s) (v : Vat) : BanksHold (s.queueWash v) :=
  BanksHold.joinTransfer (s := s.modVat v _) h _ _

/-! ### Faults and the path-open limit -/

theorem BankRecord.Sound.suspended {k : BankRecord} (h : k.Sound) (hs : k.state = .opened) : k.suspended.Sound := by
  unfold BankRecord.suspended
  split
  · exact (h.endTransfer hs).withFree _ _ _ _
  · exact h

theorem BankRecord.suspended_state (k : BankRecord) : k.suspended.state = k.state := by
  unfold BankRecord.suspended
  split <;> rfl

theorem BanksHold.faultBank (h : BanksHold s) (b : Bank) (cause : BankFaultCause) : BanksHold (s.faultBank b cause) := by
  refine BanksHold.raise (BanksHold.raise (.of_others (fun b' hb => ?_) (.faulted _ _)) _ _) _ _
  rw [(BankWork.loseTransfer b s).others b' hb]
  exact h b'

theorem State.raiseSuspended_bank (s : State) (b : Bank) : (s.raiseSuspended b).bank = s.bank := by
  unfold State.raiseSuspended
  split
  · split <;> rfl
  · rfl

theorem BanksHold.expirePath (h : BanksHold s) (b : Bank) : BanksHold (s.expirePath b) := by
  unfold State.expirePath
  split
  · rename_i hs
    have hr : BanksHold (s.raiseSuspended b) := fun b' => by
      rw [State.raiseSuspended_bank]
      exact h b'
    rw [← State.raiseSuspended_bank s b] at hs
    refine (hr.modBank ((hr b).suspended hs)).beginClose ?_ ?_ _
    · rw [State.modBank_bank_same, BankRecord.suspended_state]
      exact hs
    · rw [State.modBank_bank_same]
      exact BankRecord.suspended_current _
  · rename_i hs
    exact h.modBank ((h b).withCause hs _)
  · exact h

/-! ### The events of a bank -/

/-- A bank whose transfer is past the opening of its path is OPEN. -/
theorem BankRecord.Sound.opened_of_phase {k : BankRecord} (h : k.Sound) (hc : k.current = some c)
    (hp : c.phase ≠ .openingPath) : k.state = .opened := by
  refine (h.idle (by rw [hc]; rfl)).resolve_left fun hs => ?_
  obtain ⟨c', hc', hp', -⟩ := h.opening hs
  cases hc.symm.trans hc'
  exact hp hp'

theorem BanksHold.openPath (h : BanksHold s) (hs : (s.bank b).state = .opening) : BanksHold (s.openPath b) := by
  obtain ⟨c, hc, -, -⟩ := (h b).opening hs
  cases hx : c.cancel with
  | false =>
    rw [State.openPath_of_wanted hc hx]
    exact h.modBank ((h b).opens hs hc hx _)
  | true =>
    rw [State.openPath_of_cancelled hc hx]
    refine ((h.modBank ((h b).openEmpty hs)).endFill _).afterTransfer ?_ ?_ <;>
      rw [State.endFill_bank, State.modBank_bank_same]

theorem BanksHold.applyProvedRise (h : BanksHold s) (b : Bank) : BanksHold (s.applyProvedRise b) := by
  unfold State.applyProvedRise
  split
  · rename_i hs
    exact h.openPath hs
  · split
    · exact h.faultBank b _
    · exact h
  · split
    · exact h.faultBank b _
    · exact h
  · exact h.faultBank b _
  · exact h.faultBank b _
  · exact h.faultBank b _
  · exact h.faultBank b _
  · exact h
  · exact h

theorem BanksHold.applyProvedFall (h : BanksHold s) (b : Bank) : BanksHold (s.applyProvedFall b) := by
  unfold State.applyProvedFall
  split
  · exact h.faultBank b _
  · rename_i hs
    split
    · rename_i hp
      exact h.beginDrain hs hp
    · exact h
  · split
    · rename_i hp
      exact h.modBank ((h b).beginFlushing hp _)
    · exact h
  · exact h

theorem BanksHold.meter (h : BanksHold s) (hc : (s.bank b).current = some c) (hp : c.phase = .running) :
    BanksHold (s.meter b c) := by
  have hs := (h b).opened_of_phase hc (by simp [hp])
  have hbank := State.addFilled_bank s c s.settings.litresPerPulse
  have ht : BanksHold (s.addFilled c s.settings.litresPerPulse) := fun b' => by
    rw [hbank]
    exact h b'
  rw [← hbank] at hs hc
  unfold State.meter
  dsimp only
  split
  · refine BanksHold.afterTransfer (fun b' => ?_) ?_ ?_
    · rw [State.reportComplete_bank]
      exact (ht.modBank ((ht b).endTransfer hs)) b'
    · rw [State.reportComplete_bank, State.modBank_bank_same]
      exact hs
    · rw [State.reportComplete_bank, State.modBank_bank_same]
  · exact ht.modBank ((ht b).feed hs hc rfl (by simp [hp]) rfl (by simp [Current.watched, hp]))

theorem BanksHold.applyFlow (h : BanksHold s) (b : Bank) : BanksHold (s.applyFlow b) := by
  unfold State.applyFlow
  split
  · exact h
  · split
    · rename_i c hc
      split
      · rename_i hp
        exact h.meter hc hp
      · exact h.faultBank b _
    · exact h.faultBank b _

/-- The no-flow timer's expiry (R60). -/
theorem BanksHold.applyNoFlow (h : BanksHold s) (hn : (s.bank b).noFlow.isSome) : BanksHold (s.applyNoFlow b) := by
  obtain ⟨c, hc, hw⟩ := (h b).noFlow.mp hn
  have hp : c.phase ≠ .openingPath := by rcases hw with e | ⟨e, -⟩ <;> simp [e]
  have hs := (h b).opened_of_phase hc hp
  unfold State.applyNoFlow
  rw [hc]
  dsimp only
  split
  · refine BanksHold.raise (h.modBank ((h b).feed hs hc (c' := { c with phase := .stalled }) rfl (by simp) rfl ?_)) _ _
    by_cases hk : c.entry.kind = .wash <;> simp [Current.watched, hk]
  · exact h.modBank ((h b).feed hs hc (c' := { c with phase := .running }) rfl (by simp) rfl (by simp [Current.watched]))

theorem BanksHold.applyFlushExpiry (h : BanksHold s) (hf : (s.bank b).flush.isSome) :
    BanksHold (s.applyFlushExpiry b) := by
  unfold State.applyFlushExpiry
  dsimp only
  split
  · rename_i hc
    exact h.modBank ((h b).nextFlush hc.1 hf _ _)
  · refine BanksHold.enterReady (fun b' hb => ?_) ?_
    · rw [State.modBank_bank_ne _ _ hb]
      exact h b'
    · rw [State.modBank_bank_same]
      exact (h b).ends_flush hf

theorem BanksHold.applyRinseMatch (h : BanksHold s) (b : Bank) : BanksHold (s.applyRinseMatch b) := by
  unfold State.applyRinseMatch
  dsimp only
  split
  · exact BanksHold.raise (h.modBank ((h b).withFree _ _ _ _)) _ _
  · exact BanksHold.actOnRinse (h.modBank ((h b).withFree _ _ _ _)) b

/-! ### Several banks -/

theorem BanksHold.parkLooks (bs : List Bank) : ∀ {s : State}, BanksHold s → BanksHold (s.parkLooks bs) := by
  induction bs with
  | nil => exact id
  | cons b bs ih => exact fun h => ih (h.parkLook b)

theorem BanksHold.bankLooks (h : BanksHold s) (becomes : Transfer → Bool) (bs : List Bank) :
    BanksHold (s.bankLooks becomes bs) := by
  refine .parkLooks bs (State.forEachFreely_keeps BanksHold s _ _ h (fun _ => h) fun b _ t ht => ?_)
  split
  · rename_i hw
    exact ht.enterPriming (.inr ((State.wakes_iff becomes).mp hw).1)
  · exact ht.bankLook b

theorem BanksHold.pathLimitSet (h : BanksHold s) : BanksHold s.pathLimitSet :=
  State.forEachFreely_keeps BanksHold s _ _ h (fun _ => h) fun b _ _ ht => ht.expirePath b

theorem BanksHold.rinseIntervalSet (h : BanksHold s) : BanksHold s.rinseIntervalSet := fun b => by
  rw [State.rinseIntervalSet_bank]
  exact (h b).withFree _ _ _ _

theorem State.parkDue_isSome (h : s.parkDue b = true) : (s.bank b).park.isSome := by
  unfold State.parkDue at h
  split at h
  · rename_i hp
    rw [hp]
    rfl
  · cases h

theorem BanksHold.parkDelaySet (h : BanksHold s) : BanksHold s.parkDelaySet := fun b => by
  have hl := h.parkLook b
  rw [State.parkDelaySet_bank]
  split
  · rename_i hd
    exact hl.parkBank ((hl b).park (State.parkDue_isSome hd)) b
  · exact hl b

theorem BanksHold.tick (h : BanksHold s) : BanksHold s.tick := fun b => by
  have : s.tick.bank b = (s.bank b).tick (s.rinseCounts b) := by simp [State.tick, State.bank]
  rw [this]
  exact (h b).tick _

end Sys2Proof.Machine
end

section
/-! PROOFS. The other blocks leave the bank records, the requests and events do what the banks' work and theirs does, and so
every step keeps the bank records sound (O9). -/

namespace Sys2Proof.Machine

variable {s t u : State} {b : Bank} {v : Vat}

/-! ### The arbiters and the vat table -/

theorem BanksHold.cut (h : BanksHold s) (hw : CutWork s t) : BanksHold t := h.of_banks (by rw [hw.frame])

theorem BanksHold.line (h : BanksHold s) (hw : LineWork s t) : BanksHold t := h.of_banks (by rw [hw.frame])

theorem BanksHold.modVat (h : BanksHold s) (v : Vat) (f : VatRecord → VatRecord) : BanksHold (s.modVat v f) := h

theorem BanksHold.cutLook (h : BanksHold s) : BanksHold s.cutLook := h.cut (.cutLook s)

theorem BanksHold.lineLook (h : BanksHold s) : BanksHold s.lineLook := h.line (.lineLook s)

theorem BanksHold.applyCutOpen (h : BanksHold s) (v : Vat) : BanksHold (s.applyCutOpen v) := by
  unfold State.applyCutOpen
  split
  · exact h
  · exact (h.cut (.enterCutWindow s v)).cutLook

theorem BanksHold.applyUrgency (h : BanksHold s) (v : Vat) : BanksHold (s.applyUrgency v) := by
  unfold State.applyUrgency
  split
  · rename_i hm
    exact (h.cut (.moveUrgent hm)).cutLook
  · exact h

theorem BanksHold.applyCutClose (h : BanksHold s) (v : Vat) : BanksHold (s.applyCutClose v) := by
  unfold State.applyCutClose
  split
  · exact ((h.cut (.withdrawCut s _ v _ _)).cut (.raiseOverset _ v)).cutLook
  · exact h

theorem BanksHold.applyHealMin (h : BanksHold s) (v : Vat) : BanksHold (s.applyHealMin v) := by
  unfold State.applyHealMin
  split_ifs
  · exact h
  · exact (h.line (.queueRoutine s v)).lineLook
  · exact (h.line (.queueDump s v _ _)).lineLook

theorem BanksHold.healMinAtOnce (h : BanksHold s) (v : Vat) : BanksHold (s.healMinAtOnce v) := by
  unfold State.healMinAtOnce
  split
  · exact h.applyHealMin v
  · exact h

theorem BanksHold.applyHealMax (h : BanksHold s) (v : Vat) : BanksHold (s.applyHealMax v) := by
  unfold State.applyHealMax
  split
  · exact h
  · split
    · rename_i hm
      exact (h.line (.moveLate hm)).lineLook
    · exact h

theorem BanksHold.advance (h : BanksHold s) (v : Vat) : BanksHold (s.advance v) := by
  unfold State.advance
  split
  · exact h
  · exact (h.cut (.enterCutWindow s v)).cutLook
  · exact (h.line (.queueDump s v _ _)).lineLook

theorem BanksHold.applyCutStartExpiry (h : BanksHold s) (c : Carriage) : BanksHold (s.applyCutStartExpiry c) := by
  unfold State.applyCutStartExpiry
  split
  · exact h
  · have hm : BanksHold (s.modCarriage c fun k => { k with missed := k.missed + 1 }) := h
    refine BanksHold.cutLook ?_
    split
    · exact (hm.cut (.withdrawCut _ c _ _ _)).cut (.raiseCarriageFault _ c _)
    · exact hm.cut (.withdrawCut _ c _ _ _)

theorem BanksHold.applyDumpStartExpiry (h : BanksHold s) : BanksHold s.applyDumpStartExpiry := by
  unfold State.applyDumpStartExpiry
  split
  · exact (h.line (.withdrawDump s _ _)).lineLook
  · exact h

theorem BanksHold.modVatOf (h : BanksHold s) (v : Option Vat) (f : VatRecord → VatRecord) :
    BanksHold (s.modVatOf v f) := by
  cases v <;> exact h

theorem BanksHold.endCut (h : BanksHold s) (c : Carriage) : BanksHold (s.endCut c) :=
  BanksHold.modVatOf (s := s.modCarriage c _) h _ _

theorem BanksHold.healMinAfterCut (h : BanksHold s) (v : Option Vat) : BanksHold (s.healMinAfterCut v) := by
  cases v with
  | none => exact h
  | some v => exact h.healMinAtOnce v

theorem BanksHold.discard (h : BanksHold s) (v : Vat) : BanksHold (s.discard v) := by
  have hr : BanksHold ((s.leaveCut v).releaseCarriageOf v) := by
    unfold State.releaseCarriageOf
    split <;> exact h
  exact (BanksHold.line (BanksHold.modVat hr v _) (.queueDump _ v _ _)).lineLook

theorem BanksHold.declareVat (h : BanksHold s) (d : Declaration) (v : Vat) : BanksHold (s.declareVat d v) := by
  unfold State.declareVat
  dsimp only
  split
  · exact BanksHold.healMinAtOnce (BanksHold.modVat (BanksHold.modVat h v _) v _) v
  · exact (BanksHold.line (BanksHold.modVat h v _) (.joinDump _ v _ _)).lineLook
  · exact h

theorem State.finishLot_banks (s : State) (x : Lot) (received : Nat) : (s.finishLot x received).banks = s.banks := by
  unfold State.finishLot State.raiseShort
  split_ifs <;> rfl

theorem BanksHold.endDump (h : BanksHold s) (x : Lot) (received : Nat) : BanksHold (s.endDump x received) := by
  refine BanksHold.lineLook (BanksHold.queueWash ?_ x.vat)
  exact BanksHold.of_banks (s := s.modLine _) h (State.finishLot_banks _ x received)

/-! ### The bank requests of the Fill station -/

theorem BanksHold.dropTransfer (h : BanksHold s) (b : Bank) (v : Vat) : BanksHold (s.dropTransfer b v) :=
  h.withList b fun k => dropOne (fun e => decide (e.vat = v)) k.list

theorem BanksHold.cancelCurrent {c : Current} (h : BanksHold s) (hc : (s.bank b).current = some c) :
    BanksHold (s.cancelCurrent b c) := by
  unfold State.cancelCurrent
  split
  · rename_i hp
    exact h.modBank ((h b).cancelled hc hp)
  · rename_i hp
    have hs := (h b).opened_of_phase hc hp
    refine ((h.modBank ((h b).endTransfer hs)).endFill _).afterTransfer ?_ ?_
    · rw [State.endFill_bank, State.modBank_bank_same]
      exact hs
    · rw [State.endFill_bank, State.modBank_bank_same]

theorem BanksHold.resumeFill {c : Current} (h : BanksHold s) (hc : (s.bank b).current = some c)
    (hp : c.phase = .stalled) : BanksHold (s.resumeFill b c) :=
  h.modBank ((h b).feed ((h b).opened_of_phase hc (by simp [hp])) hc (c' := { c with phase := .running }) rfl (by simp)
    rfl (by simp [Current.watched]))

/-! ### SET and the links -/

theorem BanksHold.becomeAbsent (h : BanksHold s) (l : Link) (cause : AbsentCause) : BanksHold (s.becomeAbsent l cause) := by
  have ht : BanksHold (s.markedAbsent l cause) := h
  unfold State.becomeAbsent
  split
  · cases l with
    | fill => exact BanksHold.parkLooks _ ht
    | cut => exact (ht.cut (.withdrawForAbsence _)).cutLook
    | press => exact ht
    | console => exact ht
  · exact h

theorem BanksHold.actOnSet (h : BanksHold s) (i : Item) : BanksHold (s.actOnSet i) := by
  cases i
  case urgencyMargin =>
    change BanksHold s.marginSet
    unfold State.marginSet
    split
    · exact (h.cut (.moveAllUrgent s)).cutLook
    · exact h
  case reachLow => exact h.cutLook
  case reachHigh => exact h.cutLook
  case pathOpenLimit => exact h.pathLimitSet
  case rinseInterval => exact h.rinseIntervalSet
  case parkDelay => exact h.parkDelaySet
  case presenceTimeout => exact State.forEachFreely_keeps BanksHold s _ _ h (fun _ => h) fun l _ _ ht => ht.becomeAbsent l _
  all_goals exact h

theorem BanksHold.remap (h : BanksHold s) (slot : Slot) (y : Option Vat) : BanksHold (s.remap slot y) := by
  have hw : ∀ {m : State} (y : Option Vat) (n : Option Slot), BanksHold m → BanksHold (m.writeSlot y n) :=
    fun y _ hm => by cases y <;> exact hm
  exact hw y _ (hw _ _ h)

theorem BanksHold.heard (h : BanksHold s) (l : Link) : BanksHold (s.heard l) := by
  have ht : BanksHold ((s.modLink l fun u => { u with presence := some 0 }).raise .console (.stationPresent l)) := h
  unfold State.heard State.becomePresent
  split_ifs
  · exact h
  · exact h
  · cases l with
    | fill => exact ht.bankLooks _ _
    | cut => exact ht.cutLook
    | press => exact ht.lineLook
    | console => exact ht

theorem BanksHold.closeFrame (h : BanksHold s) (l : Link) (f : OpenFrame) : BanksHold (s.closeFrame l f) := by
  unfold State.closeFrame
  split
  · exact h
  · exact BanksHold.heard (s := s.modLink l _) h l

theorem BanksHold.receive (h : BanksHold s) (l : Link) (c : Character) : BanksHold (s.receive l c) := by
  unfold State.receive
  split
  · exact h
  · split <;> exact h
  · exact h
  · split_ifs
    · exact h.closeFrame l _
    · exact h
    · exact h

theorem BanksHold.lookAtRoom (h : BanksHold s) (l : Link) : BanksHold (s.lookAtRoom l) := by
  cases l with
  | fill => exact h
  | cut => exact h.cutLook
  | press => exact h.lineLook
  | console => exact h

/-! ### The resets -/

theorem BanksHold.fullReset (s : State) (straps : Straps) (proved : Vector Bool 4) :
    BanksHold (s.fullReset straps proved) := fun b => by
  simp only [State.bank, State.fullReset, Fin.getElem_fin, Vector.getElem_ofFn]
  exact .started _ _

theorem BanksHold.restartNow (s : State) : BanksHold s.restartNow := fun b => by
  rw [State.restartNow_bank]
  exact .started _ _

theorem BanksHold.breakLine (h : BanksHold s) (l : Link) : BanksHold (s.breakLine l) := by
  unfold State.breakLine
  dsimp only
  split
  · exact .restartNow _
  · exact BanksHold.becomeAbsent (s := s.silenced l) h l _

/-! ### Every step -/

theorem BanksHold.effect (h : BanksHold s) (he : Effect s t) : BanksHold t := by
  cases he with
  | orderFill o v => exact BanksHold.joinTransfer (h.modVat v _) _ _
  | cancelQueued v => exact BanksHold.parkLook (BanksHold.modVat (h.dropTransfer _ v) v _) _
  | cancelListed v => exact ((h.dropTransfer _ v).endFill v).parkLook _
  | cancelCurrent c filling current => exact h.cancelCurrent current
  | resumeFill c filling up current stalled => exact h.resumeFill current stalled
  | startCut c => exact BanksHold.modVatOf (s := s.modCarriage c _) h _ _
  | endCut c => exact (h.endCut c).cutLook.healMinAfterCut _
  | endCutLate c => exact (h.endCut c).healMinAfterCut _
  | refuseCut c => exact (h.cut (.withdrawOrder s c _)).cutLook
  | blockOrdered c => exact (BanksHold.cut (s := s.modCarriage c _) h (.withdrawOrder _ c _)).cutLook
  | unblock c => exact BanksHold.cutLook (s := s.modCarriage c _) h
  | resume => exact BanksHold.cutLook (s := { s with routinePause := false }) h
  | endDump n x received => exact h.endDump x received
  | refuseDump n x => exact (h.line (.withdrawDump s x _)).lineLook
  | closeLot n x => exact BanksHold.lineLook (s := s.removeLot x.number) h
  | mouldsReady => exact BanksHold.lineLook (s := s.modLine _) h
  | hold v => exact BanksHold.parkLooks _ (h.modVat v _)
  | release v => exact ((h.modVat v _).bankLooks _ _).cutLook.lineLook
  | stepModeOff v => exact (h.modVat v _).advance v
  | step v => exact h.advance v
  | dumpEarly v => exact (BanksHold.line (h.modVat v _) (.queueDump _ v _ _)).lineLook
  | releaseOverset v => exact (BanksHold.cut (h.modVat v _) (.enterCutWindow _ v)).cutLook
  | discard v => exact h.discard v
  | abandon n x => exact (BanksHold.queueWash (s := (s.removeLot x.number).modLine _) h x.vat).lineLook
  | freezeBanks on =>
    unfold State.freezeBanks
    dsimp only
    split
    · exact BanksHold.bankLooks (s := { s with frozen := { s.frozen with banks := on } }) h _ _
    · exact h
  | freezeCarriages on =>
    unfold State.freezeCarriages
    dsimp only
    split
    · exact BanksHold.cutLook (s := { s with frozen := { s.frozen with carriages := on } }) h
    · exact h
  | freezeLine on =>
    unfold State.freezeLine
    dsimp only
    split
    · exact BanksHold.lineLook (s := { s with frozen := { s.frozen with line := on } }) h
    · exact h
  | clearBank b faulted => exact h.enterPriming (.inl faulted)
  | clearCarriage c => exact BanksHold.cutLook (s := s.modCarriage c _) h
  | clearLine => exact BanksHold.lineLook (s := s.modLine _) h
  | setItem i v =>
    unfold State.setItem
    split
    · exact h
    · exact BanksHold.actOnSet (s := { s with settings := s.settings.put i v }) h i
  | mapSlot slot v => exact h.remap slot _
  | unmapSlot slot => exact h.remap slot _
  | declare d v => exact h.declareVat d v
  | _ => exact h

/-- An event that comes about only when it is due. -/
theorem BanksHold.of_due {c : Bool} (h : BanksHold s) (hu : c = true → BanksHold u)
    (ht : Host.Outcome.next (φ := Fault) (ρ := Refusal) (if c = true then u else s) = .next t) : BanksHold t := by
  cases ht
  split
  · rename_i hc
    exact hu hc
  · exact h

/-- An event that comes about unless something forbids it. -/
theorem BanksHold.of_not {c : Prop} [Decidable c] (h : BanksHold s) (hu : BanksHold u)
    (ht : Host.Outcome.next (φ := Fault) (ρ := Refusal) (if c then s else u) = .next t) : BanksHold t := by
  cases ht
  split
  · exact h
  · exact hu

theorem isSome_of_running_due {r : Bool} {x : Option Timer} (h : (!r && due x) = true) : x.isSome :=
  isSome_of_due (Bool.and_eq_true_iff.mp h).2

theorem BanksHold.exec {i : Instr} (hs : BanksHold s) (h : exec i s = .next t) : BanksHold t := by
  induction i using Instr.cases_request with
  | request l edit r =>
    rw [exec_ofRequest] at h
    cases h
    rcases State.takeRequest_effect r l edit s with e | ⟨f, x, d, e⟩
    · rwa [e]
    · exact BanksHold.effect (s := s.answered l edit f x d) hs e
  | powerOnReset resetn rate1 rate0 proved =>
    cases h
    exact BanksHold.fullReset s ⟨rate1, rate0⟩ proved
  | resetnAsserted => exact hs.of_not (u := s.holdReset) hs h
  | resetRelease =>
    cases h
    split
    · exact .fullReset s _ _
    · exact hs
  | frameClosed l =>
    cases h
    split
    · split
      · exact hs
      · exact hs.closeFrame l _
    · exact hs
  | frameAbandoned l =>
    cases h
    split
    · split <;> exact hs
    · exact hs
  | lineBreak l => exact hs.of_not (hs.breakLine l) h
  | presenceTimeout l => exact hs.of_due (fun _ => hs.becomeAbsent l _) h
  | frameSendStart l =>
    cases h
    split
    · split
      · exact hs
      · rename_i u _ _
        exact BanksHold.lookAtRoom (s := s.setLink l u) hs l
    · exact hs
  | frameSent l =>
    cases h
    split_ifs
    · exact hs
    · exact .restartNow s
    · exact hs
  | cutOpenReached v => exact hs.of_due (fun _ => hs.applyCutOpen v) h
  | urgencyMoment v => exact hs.of_due (fun _ => hs.applyUrgency v) h
  | cutCloseReached v => exact hs.of_due (fun _ => hs.applyCutClose v) h
  | healMinReached v => exact hs.of_due (fun _ => hs.applyHealMin v) h
  | healMaxReached v => exact hs.of_due (fun _ => hs.applyHealMax v) h
  | provedRise b =>
    cases h
    split_ifs
    · exact hs
    · exact hs
    · exact BanksHold.applyProvedRise (s := s.seeProved b true) hs b
  | provedFall b =>
    cases h
    split_ifs
    · exact hs
    · exact hs
    · exact BanksHold.applyProvedFall (s := s.seeProved b false) hs b
  | flowPulse b => exact hs.of_not (hs.applyFlow b) h
  | travelTimerExpiry b => exact hs.of_due (fun _ => hs.faultBank b _) h
  | drainTimerExpiry b => exact hs.of_due (fun hd => hs.endDrain (isSome_of_running_due hd)) h
  | pathOpenLimit b => exact hs.of_due (fun _ => hs.expirePath b) h
  | noFlowTimerExpiry b => exact hs.of_due (fun hd => hs.applyNoFlow (isSome_of_running_due hd)) h
  | flushTimerExpiry b => exact hs.of_due (fun hd => hs.applyFlushExpiry (isSome_of_running_due hd)) h
  | rinseCounterMatch b => exact hs.of_due (fun _ => hs.applyRinseMatch b) h
  | rinseTimerExpiry b =>
    exact hs.of_due (fun hd => .enterReady (fun b' _ => hs b') ((hs b).ends_rinse (isSome_of_running_due hd))) h
  | parkTimerExpiry b =>
    exact hs.of_due (fun hd => hs.parkBank ((hs b).park (State.parkDue_isSome (Bool.and_eq_true_iff.mp hd).2))) h
  | parkDrainEnd b => exact hs.of_due (fun hd => hs.modBank ((hs b).dried (isSome_of_running_due hd))) h
  | cutStartTimerExpiry c => exact hs.of_due (fun _ => hs.applyCutStartExpiry c) h
  | sliceTimerExpiry c => exact hs.of_due (u := s.applySliceExpiry c) (fun _ => hs) h
  | dumpStartTimerExpiry => exact hs.of_due (fun _ => hs.applyDumpStartExpiry) h
  | dumpDurationExpiry => exact hs.of_due (u := s.applyDurationExpiry) (fun _ => hs) h
  | characterReceived l c => exact hs.of_not (hs.receive l c) h
  | lineReturnedToMark l => exact hs.of_not (u := s.modLink l _) hs h

/-- Settles O9: a sound record has one of twelve shapes, and each act of a bank takes a shape to a shape; the other blocks
leave the records. -/
theorem everyStepKeepsBanks : Obligations.EveryStepKeepsBanks := by
  intro s t hs hstep
  rcases step_cases hstep with ⟨i, p, d, h⟩ | ⟨d, rfl⟩ | rfl
  · exact BanksHold.exec (s := { s with pending := p, drawn := d }) hs h
  · exact BanksHold.tick (s := { s with drawn := d }) hs
  · exact hs

end Sys2Proof.Machine
end

section
/-! PROOFS. What a bank drives (O54), the CLEAR of a bank (O46), and what a fault makes of its bank and leaves (O57). -/

namespace Sys2Proof.Machine

variable {s : State} {b : Bank} {c : Current} {k : BankRecord}

/-! ### The outputs, line by line (R50, R51, R73) -/

namespace BankRecord.Sound

theorem outputs_feed (h : k.Sound) :
    k.outputs.feed = true ↔ k.state = .opened ∧ ∃ c, k.current = some c ∧ c.phase = .running := by
  cases h.shape <;> simp [outputs, bare, Outputs.closed]

theorem outputs_openValve (h : k.Sound) : k.outputs.openValve = true ↔ k.state = .opening ∨ k.state = .opened := by
  cases h.shape <;> simp [outputs, bare, Outputs.closed]

theorem outputs_drain (h : k.Sound) : k.outputs.drain = true ↔ k.startPhase = some .flush ∨ k.state = .priming ∨
    k.state = .rinsing ∨ (k.state = .closing ∧ k.closePhase = some .drain) ∨ k.parkDrain = some true := by
  cases h.shape <;> simp [outputs, bare, Outputs.closed]

theorem outputs_rinse (h : k.Sound) :
    k.outputs.rinse = true ↔ k.startPhase = some .flush ∨ k.state = .priming ∨ k.state = .rinsing := by
  cases h.shape <;> simp [outputs, bare, Outputs.closed]

theorem outputs_medium (h : k.Sound) :
    k.outputs.medium = .fill ↔ ∃ c, k.current = some c ∧ c.entry.kind = .fill := by
  cases h.shape <;> simp [outputs, bare, Outputs.closed]

theorem outputs_sel (h : k.Sound) : k.outputs.sel = selFor k.path := by
  cases h.shape <;> simp [outputs, bare, Outputs.closed, selFor]

end BankRecord.Sound

/-- Settles O54: each line is read off the shape of a sound record, and FEED off the one shape that runs along its path. -/
theorem outputsFollowState : Obligations.OutputsFollowState := by
  intro s b h
  refine ⟨fun hr => State.outputs_of_inReset hr b, fun hr => ?_⟩
  have ho : s.outputs b = (s.bank b).outputs := if_neg (by simp [hr])
  simp only [ho]
  refine ⟨h.outputs_feed, h.outputs_openValve, h.outputs_drain, h.outputs_rinse, h.outputs_medium, fun v hv => ?_,
    fun hv => ?_, fun hf => ?_⟩
  · rw [h.outputs_sel, hv]
    rfl
  · rw [h.outputs_sel, hv]
    rfl
  · obtain ⟨hs, c, hc, -⟩ := h.outputs_feed.mp hf
    obtain ⟨-, -, hv⟩ := h.opened hs c hc
    exact ⟨c, hc, by rw [h.outputs_sel, hv]; rfl, h.outputs_openValve.mpr (.inr hs)⟩

/-! ### CLEAR of a bank (R68, R81, R168) -/

theorem State.modBank_congr (b : Bank) {g h : BankRecord → BankRecord} (e : g (s.bank b) = h (s.bank b)) :
    s.modBank b g = s.modBank b h := by rw [State.modBank, State.modBank, e]

/-- An asked CLEAR of a bank. -/
theorem exec_clearBank {l : Link} {edit : Bool} {f : Frame} (ha : Asks s l edit .clearBank f) (h₁ : f.byteAt 0 = 1)
    (hb : bankOf? (f.byteAt 1) = some b) : exec (.clearBank l edit) s = .next
      (if (s.bank b).state ≠ .faulted then s.answered l edit f .stage []
       else if s.proved[b] then s.answered l edit f .faulted []
       else (s.answered l edit f .done []).enterPriming b) := by
  refine (exec_of_asks ha).trans (congrArg _ ?_)
  change State.applyClearBank ⟨l, f⟩ (s.taken l edit) = _
  rw [State.applyClearBank, Frame.clearNumber, if_pos h₁, hb, State.inRange_some]
  rfl

/-- A FAULTED bank has no park timer, park drain or pulse for PRIMING to stop. -/
theorem BankRecord.Sound.prime_of_faulted (h : k.Sound) (hs : k.state = .faulted) (n : Timer) :
    { k with state := .priming, faultCause := none, rinseCount := 0, flush := some n, park := none, parkDrain := none,
             parkPulse := none } =
    { k with state := .priming, faultCause := none, rinseCount := 0, flush := some n } := by
  cases h.shape with
  | faulted => rfl
  | _ => cases hs

/-- Settles O46: the state is checked before PROVED, and a bank that passes both enters PRIMING. -/
theorem clearBankPrimes : Obligations.ClearBankPrimes := by
  intro s l edit f b ha h₁ hb
  rw [exec_clearBank ha h₁ hb]
  refine ⟨fun hs => ?_, fun hs hp => ?_, fun hs hp h => ?_⟩
  · rw [if_pos hs]
  · rw [if_neg (not_not.mpr hs), if_pos hp]
  · rw [if_neg (not_not.mpr hs), if_neg (by simp [hp])]
    exact congrArg _ (State.modBank_congr (s := s.answered l edit f .done []) b (h.prime_of_faulted hs _))

/-! ### Faults (R64, R67, R71, R77) -/

theorem State.loseTransfer_of_none (hc : (s.bank b).current = none) : s.loseTransfer b = s := by
  rw [State.loseTransfer, hc]

theorem State.loseTransfer_of_cancelled (hc : (s.bank b).current = some c) (hx : c.cancel = true) :
    s.loseTransfer b = s.endFill c.entry.vat := by
  rw [State.loseTransfer, hc]
  exact if_pos hx

theorem State.loseTransfer_of_wanted (hc : (s.bank b).current = some c) (hx : c.cancel = false) :
    s.loseTransfer b = s.modBank b BankRecord.suspended := by
  rw [State.loseTransfer, hc]
  exact if_neg (by simp [hx])

theorem State.endFill_links (s : State) (v : Vat) : (s.endFill v).links = s.links := by
  unfold State.endFill
  split <;> rfl

theorem State.loseTransfer_links (s : State) (b : Bank) : (s.loseTransfer b).links = s.links := by
  unfold State.loseTransfer
  split
  · rfl
  · split
    · exact State.endFill_links s _
    · rfl

theorem BankRecord.suspended_of_some (hc : k.current = some c) : k.suspended =
    { k with current := none, noFlow := none, list := { c.entry with resumed := true } :: k.list } := by
  rw [BankRecord.suspended, hc]

/-- The lost transfer is taken off its bank without a change of the rinse counter and the rinse marks (R77, R79). -/
theorem State.loseTransfer_rinse (s : State) (b : Bank) :
    ((s.loseTransfer b).bank b).rinseCount = (s.bank b).rinseCount ∧
      ((s.loseTransfer b).bank b).rinsePending = (s.bank b).rinsePending := by
  unfold State.loseTransfer
  split
  · exact ⟨rfl, rfl⟩
  · rename_i c hc
    split
    · rw [State.endFill_bank]
      exact ⟨rfl, rfl⟩
    · rw [State.modBank_bank_same, BankRecord.suspended_of_some hc]
      exact ⟨rfl, rfl⟩

theorem State.faultBank_bank (s : State) (b : Bank) (cause : BankFaultCause) :
    (s.faultBank b cause).bank b = ((s.loseTransfer b).bank b).faulted cause :=
  State.modBank_bank_same (s.loseTransfer b) b fun k => k.faulted cause

theorem State.faultBank_vats (s : State) (b : Bank) (cause : BankFaultCause) :
    (s.faultBank b cause).vats = (s.loseTransfer b).vats := rfl

theorem State.faultBank_link (s : State) (b : Bank) (cause : BankFaultCause) {l : Link}
    (hl : l = .fill ∨ l = .console) :
    (s.faultBank b cause).link l = (s.link l).raise (.bankFault b cause (s.lostTransfer b)) := by
  have hlink : (((s.loseTransfer b).modBank b fun k => k.faulted cause).link l) = s.link l :=
    congrArg (fun ls : Links => ls.get l) (s.loseTransfer_links b)
  rw [State.faultBank, State.raiseBoth]
  rcases hl with rfl | rfl
  · rw [State.raise_link_ne _ _ (by decide), State.raise_link_same, hlink]
  · rw [State.raise_link_same, State.raise_link_ne _ _ (by decide), hlink]

/-- Settles O57: the fault closes whatever record it finds, and before it the transfer is suspended or, marked, dropped. -/
theorem bankFault : Obligations.BankFault := by
  intro s b cause
  have hwork := BankWork.faultBank b s cause
  obtain ⟨hcount, hpending⟩ := s.loseTransfer_rinse b
  simp only [State.faultBank_bank, State.faultBank_vats]
  refine ⟨rfl, rfl, rfl, rfl, rfl, rfl, rfl, rfl, rfl, rfl, rfl, hcount, hpending, rfl, fun c hc hx => ?_,
    fun c hc hx => ⟨?_, fun hf => ?_, fun hf => ?_⟩, fun hc => ?_, hwork.others, s.faultBank_link b cause (.inl rfl),
    s.faultBank_link b cause (.inr rfl), ?_⟩
  · rw [State.loseTransfer_of_wanted hc hx, State.modBank_bank_same, BankRecord.suspended_of_some hc]
    exact ⟨rfl, rfl⟩
  · rw [State.loseTransfer_of_cancelled hc hx, State.endFill_bank]
    rfl
  · change (s.loseTransfer b).vat c.entry.vat = _
    rw [State.loseTransfer_of_cancelled hc hx, State.endFill_of_pos hf, State.modVat_vat_same]
  · change (s.loseTransfer b).vat c.entry.vat = _
    rw [State.loseTransfer_of_cancelled hc hx, State.endFill_of_zero hf, State.modVat_vat_same]
  · rw [State.loseTransfer_of_none hc]
    exact ⟨rfl, rfl⟩
  · rw [hwork.frame]
    exact ⟨rfl, rfl, rfl⟩

end Sys2Proof.Machine
end

section
/-! PROOFS. The expiries of a bank's path timers and of its path-open limit (O58). -/

namespace Sys2Proof.Machine

variable {s u : State} {b : Bank} {c : Current} {n : Timer}

/-! ### Events that are due -/

theorem due_of_le (h : n.limit ≤ n.count) : due (some n) = true := decide_eq_true h

/-- An event that is due comes about out of reset. -/
theorem next_of_due {d : Bool} (hr : s.inReset = false) (hd : d = true) :
    Host.Outcome.next (φ := Fault) (ρ := Refusal) (if (!s.inReset && d) = true then u else s) = .next u :=
  congrArg _ (if_pos (by simp [hr, hd]))

theorem exec_travelTimerExpiry (hr : s.inReset = false) (ht : (s.bank b).travel = some n) (hn : n.limit ≤ n.count) :
    exec (.travelTimerExpiry b) s =
      .next (s.faultBank b (if (s.bank b).state = .start then .prime else .valve)) :=
  next_of_due hr (by rw [State.travelDue, ht, due_of_le hn])

theorem exec_drainTimerExpiry (hr : s.inReset = false) (hd : (s.bank b).drain = some n) (hn : n.limit ≤ n.count) :
    exec (.drainTimerExpiry b) s = .next (s.endDrain b) :=
  next_of_due hr (by rw [State.drainDue, hd, due_of_le hn])

theorem exec_noFlowTimerExpiry (hr : s.inReset = false) (hd : (s.bank b).noFlow = some n) (hn : n.limit ≤ n.count) :
    exec (.noFlowTimerExpiry b) s = .next (s.applyNoFlow b) :=
  next_of_due hr (by rw [State.noFlowDue, hd, due_of_le hn])

/-- The path-open limit of an OPEN bank (R63). -/
theorem exec_pathOpenLimit {m : Nat} (hr : s.inReset = false) (hs : (s.bank b).state = .opened)
    (hp : (s.bank b).pathOpen = some m) (hm : s.settings.pathOpenLimit * 60 ≤ m) :
    exec (.pathOpenLimit b) s = .next (s.expirePath b) :=
  next_of_due hr (by simp [State.pathLimitDue, hs, hp, hm])

/-- The path-open limit that was due when the bank drove OPEN off in this second (R52, R63; log 21). -/
theorem exec_pathOpenLimit_stopped {p : StoppedPath} (hr : s.inReset = false) (hs : (s.bank b).state = .closing)
    (hph : (s.bank b).closePhase = some .travel) (hc : (s.bank b).closeCause ≠ some .limit)
    (hp : (s.bank b).stoppedPath = some p) (hnow : p.clock = s.clock) (hm : s.settings.pathOpenLimit * 60 ≤ p.count) :
    exec (.pathOpenLimit b) s = .next (s.expirePath b) :=
  next_of_due hr (by simp [State.pathLimitDue, hs, hph, hc, hp, hnow, hm])

/-! ### What each expiry does -/

theorem State.endDrain_of_miss (hc : (s.bank b).closeCause = some .miss) :
    s.endDrain b = (s.modBank b fun k => { k with drain := none }).enterReady b := by rw [State.endDrain, hc]

theorem State.endDrain_of_rinse (hc : (s.bank b).closeCause = some .limit ∨ (s.bank b).closeCause = some .rinse) :
    s.endDrain b = (s.modBank b fun k => { k with drain := none }).takeRinse b := by
  unfold State.endDrain
  rcases hc with e | e <;> rw [e]

/-- A RUNNING transfer stalls, with the notice of its kind; the timer of a wash starts again (R60, R71). -/
theorem State.applyNoFlow_of_running (hc : (s.bank b).current = some c) (hp : c.phase = .running) : s.applyNoFlow b =
    (s.modBank b fun k =>
      { k with current := some { c with phase := .stalled },
               noFlow := if c.entry.kind = .wash then some ⟨0, s.settings.noFlowTime⟩ else none }).raise .fill
      (s.stallNotice b c.entry) := by
  rw [State.applyNoFlow, hc]
  exact if_pos hp

/-- A STALLED transfer whose timer expires runs again (R60). -/
theorem State.applyNoFlow_of_stalled (hc : (s.bank b).current = some c) (hp : c.phase = .stalled) : s.applyNoFlow b =
    s.modBank b fun k =>
      { k with current := some { c with phase := .running }, noFlow := some ⟨0, s.settings.noFlowTime⟩ } := by
  rw [State.applyNoFlow, hc]
  exact if_neg (by simp [hp])

theorem State.stallNotice_of_fill {e : Transfer} (h : e.kind = .fill) :
    s.stallNotice b e = .fillStalled (s.vat e.vat).slot e.vat b e.volume e.target := by simp only [State.stallNotice, h]

theorem State.stallNotice_of_wash {e : Transfer} (h : e.kind = .wash) :
    s.stallNotice b e = .washStalled (s.vat e.vat).slot e.vat b e.volume e.target := by simp only [State.stallNotice, h]

theorem State.expirePath_of_opened (hs : (s.bank b).state = .opened) :
    s.expirePath b = ((s.raiseSuspended b).modBank b BankRecord.suspended).beginClose b .limit := by
  rw [State.expirePath, hs]

theorem State.expirePath_of_closing (hs : (s.bank b).state = .closing) :
    s.expirePath b = s.modBank b fun k => { k with closeCause := some .limit } := by rw [State.expirePath, hs]

theorem State.raiseSuspended_of_none (hc : (s.bank b).current = none) : s.raiseSuspended b = s := by
  rw [State.raiseSuspended, hc]

theorem State.raiseSuspended_of_wash (hc : (s.bank b).current = some c) (hk : c.entry.kind = .wash) :
    s.raiseSuspended b = s := by simp only [State.raiseSuspended, hc, hk]

theorem State.raiseSuspended_of_fill (hc : (s.bank b).current = some c) (hk : c.entry.kind = .fill) :
    s.raiseSuspended b = s.raise .fill
      (.fillSuspended (s.vat c.entry.vat).slot c.entry.vat b c.entry.volume c.entry.target) := by
  simp only [State.raiseSuspended, hc, hk]

/-- The limit on a bank without a transfer (R63). -/
theorem State.expirePath_of_waiting (hs : (s.bank b).state = .opened) (hc : (s.bank b).current = none) :
    s.expirePath b = s.beginClose b .limit := by
  rw [State.expirePath_of_opened hs, State.raiseSuspended_of_none hc,
    State.modBank_of_same b (by rw [BankRecord.suspended, hc])]

theorem State.modBank_suspended (hc : (s.bank b).current = some c) : s.modBank b BankRecord.suspended = s.modBank b
    fun k => { k with current := none, noFlow := none, list := { c.entry with resumed := true } :: k.list } :=
  State.modBank_congr b (BankRecord.suspended_of_some hc)

theorem State.stoppedAt_eq (s : State) (o : Option Nat) : s.stoppedAt o =
    o.bind fun n => if s.settings.pathOpenLimit * 60 ≤ n then some ⟨s.clock, n⟩ else none := by cases o <;> rfl

/-- Settles O58: each expiry, when it is due, is applied by the state, the cause, the phase and the kind that the record
holds. -/
theorem pathTimers : Obligations.PathTimers := by
  refine ⟨fun s b n hr hn => ⟨fun ht => ⟨fun hs => ?_, fun hs => ?_⟩, fun hd => ⟨fun hc => ?_, fun hc => ?_⟩,
    fun c hf hc => ⟨fun hp hk => ?_, fun hp hk => ?_, fun hp => ?_⟩,
    fun m hs hp hm => ⟨fun hc => ?_, fun c hc => ⟨fun hk => ?_, fun hk => ?_⟩⟩⟩, fun s b cause => ?_,
    fun s b p hr hs hph hc hp hnow hm => ?_, fun s b m hr hs hp hm => exec_pathOpenLimit hr hs hp hm,
    fun s b n hr hd hn => exec_drainTimerExpiry hr hd hn⟩
  · rw [exec_travelTimerExpiry hr ht hn, if_pos hs]
  · rw [exec_travelTimerExpiry hr ht hn, if_neg hs]
  · rw [exec_drainTimerExpiry hr hd hn, State.endDrain_of_miss hc]
  · rw [exec_drainTimerExpiry hr hd hn, State.endDrain_of_rinse hc]
    rfl
  · rw [exec_noFlowTimerExpiry hr hf hn, State.applyNoFlow_of_running hc hp, State.stallNotice_of_fill hk,
      if_neg (by simp [hk])]
  · rw [exec_noFlowTimerExpiry hr hf hn, State.applyNoFlow_of_running hc hp, State.stallNotice_of_wash hk, if_pos hk]
  · rw [exec_noFlowTimerExpiry hr hf hn, State.applyNoFlow_of_stalled hc hp]
  · rw [exec_pathOpenLimit hr hs hp hm, State.expirePath_of_waiting hs hc]
  · rw [exec_pathOpenLimit hr hs hp hm, State.expirePath_of_opened hs, State.raiseSuspended_of_wash hc hk,
      State.modBank_suspended hc]
  · rw [exec_pathOpenLimit hr hs hp hm, State.expirePath_of_opened hs, State.raiseSuspended_of_fill hc hk,
      State.modBank_suspended (by rw [State.raise_bank]; exact hc)]
    rfl
  · simp only [State.beginClose, State.stoppedAt_eq]
    rfl
  · rw [exec_pathOpenLimit_stopped hr hs hph (by rcases hc with e | e <;> simp [e]) hp hnow hm,
      State.expirePath_of_closing hs]

end Sys2Proof.Machine
end

section
/-! PROOFS. A station's presence follows its valid frames and its timer (O19). -/

namespace Sys2Proof.Machine

variable {s : State} {l : Link} {c d : Carriage} {cause : WithdrawCause}

/-! ### Valid frames -/

theorem State.heard_console (s : State) : s.heard .console = s := if_pos rfl

theorem State.heard_of_present (hl : l ≠ .console) (hp : s.present l = true) :
    s.heard l = s.modLink l fun u => { u with presence := some 0 } := (if_neg hl).trans (if_pos hp)

theorem State.heard_of_absent (hl : l ≠ .console) (hp : (s.link l).presence = none) : s.heard l = s.becomePresent l :=
  (if_neg hl).trans (if_neg (by simp [State.present, hp]))

/-! ### The presence timer -/

theorem exec_presenceTimeout (hr : s.inReset = false) (hd : s.presenceDue l = true) :
    exec (.presenceTimeout l) s = .next (s.becomeAbsent l .timeout) := next_of_due hr hd

/-- A withdrawn order leaves the record of every other carriage (R100). -/
theorem State.withdrawOrder_carriage_ne (h : d ≠ c) (hc : cause ≠ .cutClose) :
    (s.withdrawOrder c cause).carriage d = s.carriage d := by
  by_cases hs : (s.carriage c).state = .ordered
  · cases hv : (s.carriage c).vat with
    | some v => rw [State.withdrawOrder_of_ordered hs hv hc, State.orderReturned_carriage_ne v cause h]
    | none => simp only [State.withdrawOrder, hs, hv]
  · rw [State.withdrawOrder_of_idle hs]

/-- No carriage with a sound record stands ORDERED after its order is withdrawn. -/
theorem State.withdrawOrder_carriage_state (h : (s.carriage c).Sound) (hc : cause ≠ .cutClose) :
    ((s.withdrawOrder c cause).carriage c).state ≠ .ordered := by
  by_cases hs : (s.carriage c).state = .ordered
  · obtain ⟨v, hv⟩ := Option.isSome_iff_exists.mp (h.ordered hs)
    rw [State.withdrawOrder_of_ordered hs hv hc, State.orderReturned, State.raise_carriage, State.returnCut_carriage,
      State.modVat_carriage, State.modCarriage_carriage_same]
    exact fun e => by cases e
  · rwa [State.withdrawOrder_of_idle hs]

/-- After the orders of both carriages are withdrawn none stands, and a carriage that was not ORDERED is as it was (R109). -/
theorem State.bothWithdrawn_carriage (hcd : c ≠ d) (h : ∀ c, (s.carriage c).Sound) (x : Carriage) :
    ((s.bothWithdrawn c d).carriage x).state ≠ .ordered ∧
      ((s.carriage x).state ≠ .ordered → (s.bothWithdrawn c d).carriage x = s.carriage x) := by
  have habs : WithdrawCause.absent ≠ .cutClose := by decide
  have hd : (s.withdrawOrder c .absent).carriage d = s.carriage d := State.withdrawOrder_carriage_ne hcd.symm habs
  unfold State.bothWithdrawn
  by_cases hx : x = d
  · subst hx
    refine ⟨State.withdrawOrder_carriage_state (by rw [hd]; exact h x) habs, fun hs => ?_⟩
    rw [State.withdrawOrder_of_idle (by rw [hd]; exact hs), hd]
  · obtain rfl : x = c := carriage_eq_of_ne hcd hx
    rw [State.withdrawOrder_carriage_ne hx habs]
    exact ⟨State.withdrawOrder_carriage_state (h x) habs, fun hs => by rw [State.withdrawOrder_of_idle hs]⟩

/-- Settles O19: a frame restarts the timer or makes the station PRESENT, and the timer's expiry makes it ABSENT, with the act
of the block that reads the presence. -/
theorem presenceFollowsFramesAndTimeout : Obligations.PresenceFollowsFramesAndTimeout := by
  refine ⟨fun s l => ⟨fun hl => ?_, fun hl n hn => ?_, fun hp => ⟨fun hl => ?_, fun hl => ?_, fun hl => ?_⟩⟩,
    fun s l n hr hl hn hle => ⟨fun e => ?_, fun e => ⟨?_, fun hsound => ?_⟩, fun e => ?_⟩⟩
  · rw [hl, State.heard_console]
  · exact State.heard_of_present hl ((State.present_iff l).mpr ⟨n, hn⟩)
  · subst hl
    exact State.heard_of_absent (by decide) hp
  · subst hl
    exact State.heard_of_absent (by decide) hp
  · subst hl
    exact State.heard_of_absent (by decide) hp
  all_goals
    have hpresent := (State.present_iff l).mpr ⟨n, hn⟩
    have hexec := exec_presenceTimeout hr (State.presenceDue_iff.mpr ⟨hl, n, hn, hle⟩)
    subst e
  · rw [hexec, State.becomeAbsent_fill hpresent]
    rfl
  · rw [hexec, State.becomeAbsent_cut hpresent]
    rfl
  · obtain ⟨c, d, hcd, -, e⟩ := (s.markedAbsent .cut .timeout).withdrawForAbsence_cases
    have := State.bothWithdrawn_carriage (s := s.markedAbsent .cut .timeout) hcd hsound
    rw [← e] at this
    exact this
  · rw [hexec, State.becomeAbsent_press hpresent]
    rfl

end Sys2Proof.Machine
end

section
/-! PROOFS. The flush, rinse and park timers of a bank and its rinse counter, and how a bank enters READY (O59). -/

namespace Sys2Proof.Machine

variable {s : State} {b : Bank} {n : Timer}

/-! ### Expiries that are due -/

theorem exec_flushTimerExpiry (hr : s.inReset = false) (hf : (s.bank b).flush = some n) (hn : n.limit ≤ n.count) :
    exec (.flushTimerExpiry b) s = .next (s.applyFlushExpiry b) :=
  next_of_due hr (by rw [State.flushDue, hf, due_of_le hn])

theorem exec_rinseTimerExpiry (hr : s.inReset = false) (hd : (s.bank b).rinse = some n) (hn : n.limit ≤ n.count) :
    exec (.rinseTimerExpiry b) s = .next (s.enterReady b) :=
  next_of_due hr (by rw [State.rinseDue, hd, due_of_le hn])

theorem exec_parkDrainEnd (hr : s.inReset = false) (hp : (s.bank b).parkPulse = some n) (hn : n.limit ≤ n.count) :
    exec (.parkDrainEnd b) s = .next (s.modBank b fun k => { k with parkDrain := some false, parkPulse := none }) :=
  next_of_due hr (by rw [State.parkPulseDue, hp, due_of_le hn])

theorem exec_parkTimerExpiry {m : Nat} (hr : s.inReset = false) (hp : (s.bank b).park = some m)
    (hd : s.settings.parkDelay ≠ 0) (hm : s.settings.parkDelay * 60 ≤ m) :
    exec (.parkTimerExpiry b) s = .next (s.parkBank b) :=
  next_of_due hr (by simp [State.parkDue, hp, hd, hm])

/-- The rinse counter's match of a bank whose counter runs (R77, R78). -/
theorem exec_rinseCounterMatch (hr : s.inReset = false) (hi : s.settings.rinseInterval ≠ 0)
    (hp : (s.bank b).state ≠ .parked) (hf : (s.bank b).state ≠ .faulted)
    (hm : s.settings.rinseInterval * 60 ≤ (s.bank b).rinseCount) :
    exec (.rinseCounterMatch b) s = .next (s.applyRinseMatch b) :=
  next_of_due hr (by simp [State.rinseMatchDue, State.rinseCounts, hi, hp, hf, hm])

/-! ### Flushes (R75, R82) -/

theorem State.applyFlushExpiry_of_more {d : Nat} (hs : (s.bank b).state = .start) (hd : (s.bank b).flushesDone = some d)
    (hm : d + 1 < s.settings.flushCount) : s.applyFlushExpiry b = s.modBank b fun k =>
      { k with flushesDone := some (d + 1), flush := some ⟨0, s.settings.flushDuration⟩ } := by
  simp only [State.applyFlushExpiry, hd, Option.getD_some]
  exact if_pos ⟨hs, hm⟩

/-- The last flush of the start sequence ends it. -/
theorem State.applyFlushExpiry_of_last {d : Nat} (hd : (s.bank b).flushesDone = some d)
    (hm : s.settings.flushCount ≤ d + 1) : s.applyFlushExpiry b = s.endPriming b := by
  simp only [State.applyFlushExpiry, hd, Option.getD_some]
  exact if_neg fun h => Nat.not_lt.mpr hm h.2

theorem State.applyFlushExpiry_of_priming (hs : (s.bank b).state = .priming) : s.applyFlushExpiry b = s.endPriming b :=
  if_neg fun h => by simp [hs] at h

/-! ### The park drain pulse (R84) -/

theorem State.parkBank_of_interval (hi : s.settings.drainInterval ≠ 0) : s.parkBank b = s.modBank b fun k =>
    { k with state := .parked, park := none, parkDrain := some true,
             parkPulse := some ⟨0, s.settings.drainInterval⟩ } := by
  simp only [State.parkBank, if_neg hi, decide_eq_true hi]
  rfl

theorem State.parkBank_of_no_interval (hi : s.settings.drainInterval = 0) : s.parkBank b = s.modBank b fun k =>
    { k with state := .parked, park := none, parkDrain := some false, parkPulse := none } := by
  simp [State.parkBank, hi]

/-! ### The rinse counter's match (R78, R79) -/

/-- A match while a rinse is pending merges with it, which is then overdue. -/
theorem State.applyRinseMatch_of_pending (hp : (s.bank b).rinsePending = true) : s.applyRinseMatch b =
    (s.modBank b fun k => { k with rinseCount := 0, rinseOverdue := true }).raise .console
      (.rinseOverdue b (s.bank b).state ((s.bank b).current.map Current.entry)) := if_pos hp

theorem State.applyRinseMatch_of_clear (hp : (s.bank b).rinsePending = false) : s.applyRinseMatch b =
    (s.modBank b fun k => { k with rinseCount := 0, rinsePending := true }).actOnRinse b :=
  if_neg (by simp [hp])

theorem State.actOnRinse_of_ready (hs : (s.bank b).state = .ready) : s.actOnRinse b = s.takeRinse b := by
  simp only [State.actOnRinse, hs]

theorem State.actOnRinse_of_waiting (hs : (s.bank b).state = .opened) (hc : (s.bank b).current = none) :
    s.actOnRinse b = s.beginClose b .rinse := by
  simp only [State.actOnRinse, hs, hc]

/-- A bank that is neither READY nor OPEN without a transfer leaves the rinse pending. -/
theorem State.actOnRinse_of_busy (hs : (s.bank b).state ≠ .ready)
    (ho : (s.bank b).state = .opened → (s.bank b).current ≠ none) : s.actOnRinse b = s := by
  unfold State.actOnRinse
  split
  case h_1 e => exact absurd e hs
  case h_2 e hc => exact absurd hc (ho e)
  case h_3 => rfl

/-! ### Entering READY, and the end of a transfer (R79, R80, R82, R83) -/

theorem State.readied_rinsePending (s : State) (b : Bank) :
    ((s.modBank b BankRecord.readied).bank b).rinsePending = (s.bank b).rinsePending := by
  rw [State.modBank_bank_same, BankRecord.readied]

/-- A bank that enters READY with a rinse pending takes it, and its park timer stays stopped. -/
theorem State.enterReady_of_pending (hp : (s.bank b).rinsePending = true) :
    s.enterReady b = (s.modBank b BankRecord.readied).takeRinse b := by
  have hrinse : s.enterReady b = ((s.modBank b BankRecord.readied).takeRinse b).parkLook b :=
    congrArg (State.parkLook · b) (if_pos ((s.readied_rinsePending b).trans hp))
  rw [hrinse, State.parkLook_of_still] <;> simp [State.takeRinse]

theorem State.enterReady_of_clear (hp : (s.bank b).rinsePending = false) :
    s.enterReady b = ((s.modBank b BankRecord.readied).bankLook b).parkLook b :=
  congrArg (State.parkLook · b) (if_neg (Bool.eq_false_iff.mp ((s.readied_rinsePending b).trans hp)))

theorem State.afterTransfer_of_pending (hp : (s.bank b).rinsePending = true) : s.afterTransfer b = s.beginClose b .rinse :=
  if_pos hp

theorem State.afterTransfer_of_clear (hp : (s.bank b).rinsePending = false) : s.afterTransfer b = s.bankLook b :=
  if_neg (by simp [hp])

/-- Settles O59: each expiry, when it is due, by the bank's state and settings; then READY, the end of a transfer and the
taking of a rinse, by the rinse pending mark. -/
theorem hygieneTimers : Obligations.HygieneTimers := by
  refine ⟨fun s b n hr hn => ⟨fun hf => ⟨fun d hs hd hm => ?_, fun d _ hd hm => ?_, fun hs => ?_⟩,
      fun hd => exec_rinseTimerExpiry hr hd hn, fun hp => exec_parkDrainEnd hr hp hn,
      fun m hp hd hm hi => ?_, fun m hp hd hm hi => ?_,
      fun hi hpk hft hm => ⟨fun hp => ?_, fun hp => ⟨fun hs => ?_, fun hs hc => ?_, fun hs ho => ?_⟩⟩⟩,
    fun s b => ⟨fun hp => ?_, State.enterReady_of_clear, State.afterTransfer_of_pending, State.afterTransfer_of_clear,
      rfl⟩⟩
  · rw [exec_flushTimerExpiry hr hf hn, State.applyFlushExpiry_of_more hs hd hm]
  · rw [exec_flushTimerExpiry hr hf hn, State.applyFlushExpiry_of_last hd hm]
    rfl
  · rw [exec_flushTimerExpiry hr hf hn, State.applyFlushExpiry_of_priming hs]
    rfl
  · rw [exec_parkTimerExpiry hr hp hd hm, State.parkBank_of_interval hi]
  · rw [exec_parkTimerExpiry hr hp hd hm, State.parkBank_of_no_interval hi]
  · rw [exec_rinseCounterMatch hr hi hpk hft hm, State.applyRinseMatch_of_pending hp]
  · rw [exec_rinseCounterMatch hr hi hpk hft hm, State.applyRinseMatch_of_clear hp,
      State.actOnRinse_of_ready (by simpa using hs)]
  · rw [exec_rinseCounterMatch hr hi hpk hft hm, State.applyRinseMatch_of_clear hp,
      State.actOnRinse_of_waiting (by simpa using hs) (by simpa using hc)]
  · rw [exec_rinseCounterMatch hr hi hpk hft hm, State.applyRinseMatch_of_clear hp,
      State.actOnRinse_of_busy (by simpa using hs) (by simpa using ho)]
  · rw [State.enterReady_of_pending hp, State.takeRinse, State.modBank_modBank, State.modBank_modBank]
    rfl

end Sys2Proof.Machine
end

section
/-! PROOFS. The five shapes of a sound carriage record, and what each act of the carriage arbiter makes of a shape. -/

namespace Sys2Proof.Machine

namespace CarriageRecord

variable {k : CarriageRecord}

/-- The shapes that R89 gives a carriage record; FAULTED it still holds its vat, or holds none. -/
inductive Shape : CarriageRecord → Prop
  | free (blocked : Bool) (since missed : Nat) (few : missed ≤ 7) :
      Shape ⟨.free, blocked, none, none, none, none, none, since, missed, none, none⟩
  | ordered (blocked : Bool) (v : Vat) (tag granted since missed : Nat) (start : Timer) (low : 1 ≤ tag) (high : tag ≤ 255)
      (few : missed ≤ 7) :
      Shape ⟨.ordered, blocked, some v, some tag, some granted, none, none, since, missed, some start, none⟩
  | cutting (blocked : Bool) (v : Vat) (tag granted began since missed : Nat) (slice : Timer) (low : 1 ≤ tag)
      (high : tag ≤ 255) (few : missed ≤ 7) :
      Shape ⟨.cutting, blocked, some v, some tag, some granted, some began, none, since, missed, none, some slice⟩
  | holding (blocked : Bool) (v : Vat) (tag granted began since missed : Nat) (low : 1 ≤ tag) (high : tag ≤ 255)
      (few : missed ≤ 8) :
      Shape ⟨.faulted, blocked, some v, some tag, some granted, some began, some .slice, since, missed, none, none⟩
  | empty (blocked : Bool) (cause : CarriageFaultCause) (since missed : Nat) (few : missed ≤ 8) :
      Shape ⟨.faulted, blocked, none, none, none, none, some cause, since, missed, none, none⟩

theorem Shape.sound (h : k.Shape) : k.Sound := by
  cases h <;> constructor <;> simp_all

theorem Shape.of_eq {j : CarriageRecord} (h : j.Shape) (e : k = j) : k.Shape := e ▸ h

theorem Sound.shape (h : k.Sound) : k.Shape := by
  obtain ⟨state, blocked, vat, tag, orderedAt, startedAt, faultCause, freeSince, m, start, slice⟩ := k
  obtain ⟨holds, since, free, ordered, cutting, faulted, started, cause, hstart, hslice, tagRange, missed⟩ := h
  cases state
  all_goals simp at holds since free ordered cutting faulted started cause hstart hslice tagRange missed
  case free =>
    subst free
    simp at holds since
    subst_vars
    exact .free blocked freeSince m missed
  case ordered =>
    obtain ⟨v, rfl⟩ := Option.isSome_iff_exists.mp ordered
    obtain ⟨t, rfl⟩ := Option.isSome_iff_exists.mp holds.symm
    obtain ⟨a, rfl⟩ := Option.isSome_iff_exists.mp since
    obtain ⟨n, rfl⟩ := Option.isSome_iff_exists.mp hstart
    obtain ⟨low, high⟩ := tagRange t rfl
    subst_vars
    exact .ordered blocked v t a freeSince m n low high missed
  case cutting =>
    obtain ⟨v, rfl⟩ := Option.isSome_iff_exists.mp cutting
    obtain ⟨t, rfl⟩ := Option.isSome_iff_exists.mp holds.symm
    obtain ⟨a, rfl⟩ := Option.isSome_iff_exists.mp since
    obtain ⟨b, rfl⟩ := Option.isSome_iff_exists.mp started
    obtain ⟨n, rfl⟩ := Option.isSome_iff_exists.mp hslice
    obtain ⟨low, high⟩ := tagRange t rfl
    subst_vars
    exact .cutting blocked v t a b freeSince m n low high missed
  case faulted =>
    subst hstart hslice
    cases vat with
    | some v =>
      obtain ⟨t, rfl⟩ := Option.isSome_iff_exists.mp holds.symm
      obtain ⟨a, rfl⟩ := Option.isSome_iff_exists.mp since
      obtain ⟨b, rfl⟩ := Option.isSome_iff_exists.mp started
      obtain rfl := faulted rfl
      obtain ⟨low, high⟩ := tagRange t rfl
      exact .holding blocked v t a b freeSince m low high missed
    | none =>
      obtain ⟨x, rfl⟩ := Option.isSome_iff_exists.mp cause
      simp at holds since started
      subst_vars
      exact .empty blocked x freeSince m missed

/-! ### The acts of the arbiter -/

/-- The blocked mark is free (R107). -/
theorem Sound.withBlocked (h : k.Sound) (on : Bool) : { k with blocked := on }.Sound := { h with }

/-- A second of the make clock (R173). -/
theorem Sound.tick (h : k.Sound) : k.tick.Sound :=
  { h with
    start := by simpa [CarriageRecord.tick] using h.start
    slice := by simpa [CarriageRecord.tick] using h.slice }

/-- A FREE carriage is granted (R96). -/
theorem Sound.granted {x : CutChoice} {s : State} (h : k.Sound) (hs : k.state = .free) (low : 1 ≤ s.tagToIssue)
    (high : s.tagToIssue ≤ 255) : (x.granted s k).Sound := by
  cases h.shape with
  | free blocked since missed few => exact (Shape.ordered _ _ _ _ _ _ _ low high few).sound
  | _ => cases hs

/-- The order of an ORDERED carriage is withdrawn without a strike (R100, R102, R107, R109). -/
theorem Sound.withdrawn (h : k.Sound) (hs : k.state = .ordered) (clock : Nat) : (k.withdrawn clock false).Sound := by
  cases h.shape with
  | ordered blocked v tag a since missed start low high few => exact (Shape.free blocked clock missed few).sound
  | _ => cases hs

theorem withdrawn_tag (k : CarriageRecord) (clock : Nat) (faulted : Bool) : (k.withdrawn clock faulted).tag = none := by
  cases faulted <;> rfl

/-- A strike withdraws the order, and faults the carriage at the strikes setting (R101). -/
theorem Sound.struck {strikes : Nat} (h : k.Sound) (hs : k.state = .ordered) (hn : strikes ≤ 8) (clock : Nat) :
    ({ k with missed := k.missed + 1 }.withdrawn clock (decide (strikes ≤ k.missed + 1))).Sound := by
  cases h.shape with
  | ordered blocked v tag a since missed start low high few =>
    by_cases hm : strikes ≤ missed + 1
    · simp only [hm, decide_true]
      exact (Shape.empty blocked .strikes since (missed + 1) (by omega)).sound
    · simp only [hm, decide_false]
      exact (Shape.free blocked clock (missed + 1) (by omega)).sound
  | _ => cases hs

/-- The cut of an ORDERED carriage starts (R99). -/
theorem Sound.started_of_ordered (h : k.Sound) (hs : k.state = .ordered) (clock limit : Nat) :
    (k.started clock limit).Sound := by
  cases h.shape with
  | ordered blocked v tag a since missed start low high few =>
    exact (Shape.cutting _ _ _ _ _ _ _ _ low high (Nat.zero_le 7)).sound
  | _ => cases hs

/-- The slice timer of a CUTTING carriage expires (R104). -/
theorem Sound.sliced (h : k.Sound) (hs : k.state = .cutting) :
    { k with state := .faulted, faultCause := some .slice, slice := none }.Sound := by
  cases h.shape with
  | cutting blocked v tag a b since missed slice low high few =>
    exact (Shape.holding _ _ _ _ _ _ _ low high (Nat.le_succ_of_le few)).sound
  | _ => cases hs

/-- A FAULTED carriage is released from its vat (R105, R106). -/
theorem Sound.released (h : k.Sound) (hs : k.state = .faulted) : k.released.Sound := by
  cases h.shape with
  | holding blocked v tag a b since missed low high few => exact (Shape.empty _ _ _ _ few).sound
  | empty blocked cause since missed few => exact (Shape.empty _ _ _ _ few).sound
  | _ => cases hs

/-- The cut of a CUTTING or FAULTED carriage ends (R105). -/
theorem Sound.afterCut (h : k.Sound) (hs : k.state = .cutting ∨ k.state = .faulted) (clock : Nat) :
    (k.afterCut clock).Sound := by
  rcases hs with hs | hs
  · rw [CarriageRecord.afterCut, if_pos hs]
    cases h.shape with
    | cutting blocked v tag a b since missed slice low high few => exact (Shape.free _ _ _ few).sound
    | _ => cases hs
  · rw [CarriageRecord.afterCut, if_neg (by simp [hs])]
    exact h.released hs

theorem afterCut_tag (k : CarriageRecord) (clock : Nat) : (k.afterCut clock).tag = none := by
  unfold CarriageRecord.afterCut
  split <;> rfl

/-- A FAULTED carriage that holds no vat is cleared (R112). -/
theorem Sound.cleared (h : k.Sound) (hs : k.state = .faulted) (hv : k.vat = none) (clock : Nat) :
    { k with state := .free, faultCause := none, missed := 0, freeSince := clock }.Sound := by
  cases h.shape with
  | empty blocked cause since missed few => exact (Shape.free _ _ _ (Nat.zero_le 7)).sound
  | holding => cases hv
  | _ => cases hs

end CarriageRecord
end Sys2Proof.Machine
end

section
/-! PROOFS. The arbiter's records and tags keep what R89 and R97 ask of them, and so every step does (O10). -/

namespace Sys2Proof.Machine

variable {s t u : State} {c : Carriage} {v : Vat}

/-! ### The records and the tags -/

/-- A tag stands while some carriage holds it (R98). -/
theorem State.standing?_eq_none {n : Nat} : s.standing? n = none ↔ ∀ c, (s.carriage c).tag ≠ some n := by
  rw [← Option.not_isSome_iff_eq_none, State.standing?_isSome, not_exists]

/-- The carriage records are sound and the late-tag set is (R89, R97). -/
def CarriagesReady (s : State) : Prop := CarriagesHold s ∧ LateTagsHold s

theorem CarriagesReady.sound (h : CarriagesReady s) (c : Carriage) : (s.carriage c).Sound := h.1.1 c

theorem CarriagesReady.strikes (h : CarriagesReady s) : s.settings.strikes ≤ 8 := h.1.2.1

/-- What the invariant reads is as it was. -/
theorem CarriagesReady.congr (h : CarriagesReady s) (hc : t.carriages = s.carriages) (hs : t.settings = s.settings)
    (hn : t.tagCounter = s.tagCounter) (hl : t.lateTags = s.lateTags) : CarriagesReady t := by
  have hcar : ∀ c, t.carriage c = s.carriage c := fun c => by simp only [State.carriage, hc]
  simpa only [CarriagesReady, CarriagesHold, LateTagsHold, State.standing?, hcar, hs, hn, hl] using h

/-- A carriage record changes, and its tag stays or goes. -/
theorem CarriagesReady.modCarriage (h : CarriagesReady s) {f : CarriageRecord → CarriageRecord}
    (hf : (f (s.carriage c)).Sound) (ht : (f (s.carriage c)).tag = none ∨ (f (s.carriage c)).tag = (s.carriage c).tag) :
    CarriagesReady (s.modCarriage c f) := by
  obtain ⟨⟨sound, settings⟩, nodup, late, apart⟩ := h
  have tag : ∀ d n, ((s.modCarriage c f).carriage d).tag = some n → (s.carriage d).tag = some n := fun d n hd => by
    by_cases hdc : d = c
    · subst hdc
      rw [State.modCarriage_carriage_same] at hd
      rcases ht with e | e <;> rw [e] at hd
      · cases hd
      · exact hd
    · rwa [State.modCarriage_carriage_ne _ _ hdc] at hd
  refine ⟨⟨fun d => ?_, settings⟩, nodup, fun n hn => ?_, fun d d' hne n hd hd' => ?_⟩
  · by_cases hdc : d = c
    · subst hdc
      rwa [State.modCarriage_carriage_same]
    · rw [State.modCarriage_carriage_ne _ _ hdc]
      exact sound d
  · obtain ⟨low, high, free⟩ := late n hn
    exact ⟨low, high, State.standing?_eq_none.mpr fun d hd => State.standing?_eq_none.mp free d (tag d n hd)⟩
  · exact apart d d' hne n (tag d n hd) (tag d' n hd')

/-- A tag that stands no more joins the late-tag set (R97). -/
theorem CarriagesReady.joinLate (h : CarriagesReady s) (o : Option Nat)
    (ho : ∀ n, o = some n → (1 ≤ n ∧ n ≤ 255) ∧ ∀ c, (s.carriage c).tag ≠ some n) :
    CarriagesReady { s with lateTags := joinLateTags s.lateTags o } := by
  obtain ⟨holds, nodup, late, apart⟩ := h
  cases o with
  | none => exact ⟨holds, nodup, late, apart⟩
  | some n =>
    obtain ⟨⟨low, high⟩, free⟩ := ho n rfl
    by_cases hn : n ∈ s.lateTags
    · have e : joinLateTags s.lateTags (some n) = s.lateTags := if_pos hn
      rw [e]
      exact ⟨holds, nodup, late, apart⟩
    · have e : joinLateTags s.lateTags (some n) = s.lateTags ++ [n] := if_neg hn
      rw [e]
      refine ⟨holds, ?_, fun m hm => ?_, apart⟩
      · exact nodup.append (List.nodup_singleton n) (List.disjoint_singleton.mpr hn)
      · rcases List.mem_append.mp hm with hm | hm
        · exact late m hm
        · obtain rfl := List.mem_singleton.mp hm
          exact ⟨low, high, State.standing?_eq_none.mpr free⟩

/-! ### The other blocks -/

theorem CarriagesReady.banks (h : CarriagesReady s) (hw : BanksWork s t) : CarriagesReady t :=
  h.congr (by rw [hw.frame]) (by rw [hw.frame]) (by rw [hw.frame]) (by rw [hw.frame])

theorem CarriagesReady.bank {b : Bank} (h : CarriagesReady s) (hw : BankWork b s t) : CarriagesReady t := h.banks hw.banks

theorem CarriagesReady.line (h : CarriagesReady s) (hw : LineWork s t) : CarriagesReady t :=
  h.congr (by rw [hw.frame]) (by rw [hw.frame]) (by rw [hw.frame]) (by rw [hw.frame])

theorem CarriagesReady.lineLook (h : CarriagesReady s) : CarriagesReady s.lineLook := h.line (.lineLook s)

/-! ### Grants -/

/-- A grant gives a tag that no carriage holds to a FREE carriage, which holds none (R96, R97). -/
theorem CarriagesReady.applyCutGrant (h : CarriagesReady s) {x : CutChoice} (hc : s.cutEligible x.entry c = true) :
    CarriagesReady (s.applyCutGrant x c) := by
  obtain ⟨⟨sound, strikes, counterLow, counterHigh⟩, nodup, late, apart⟩ := h
  obtain ⟨low, high⟩ := State.freeTag_range (s := s) counterLow counterHigh 2
  have fresh : ∀ d, (s.carriage d).tag ≠ some s.tagToIssue := State.freeTag_free counterLow
  obtain ⟨free, -⟩ := State.cutEligible_iff.mp hc
  have granted := State.applyCutGrant_carriage_same (s := s) x c
  have others : ∀ d, d ≠ c → (s.applyCutGrant x c).carriage d = s.carriage d := fun d hd =>
    State.applyCutGrant_carriage_ne x hd
  have tag : ((s.applyCutGrant x c).carriage c).tag = some s.tagToIssue := by rw [granted]; rfl
  refine ⟨⟨fun d => ?_, ?_, nextTag_range _⟩, nodup.filter _, fun n hn => ?_, fun d d' hne n hd hd' => ?_⟩
  · by_cases hd : d = c
    · subst hd
      rw [granted]
      exact (sound d).granted free low high
    · rw [others d hd]
      exact sound d
  · rw [(State.applyCutGrant_keeps x c).1]
    exact strikes
  · obtain ⟨hn, hne⟩ := List.mem_filter.mp hn
    obtain ⟨hlow, hhigh, hfree⟩ := late n hn
    refine ⟨hlow, hhigh, State.standing?_eq_none.mpr fun d hd => ?_⟩
    by_cases hdc : d = c
    · subst hdc
      rw [tag] at hd
      cases hd
      simp at hne
    · rw [others d hdc] at hd
      exact State.standing?_eq_none.mp hfree d hd
  · by_cases hdc : d = c
    · subst hdc
      rw [tag] at hd
      cases hd
      rw [others d' hne.symm] at hd'
      exact fresh d' hd'
    · rw [others d hdc] at hd
      by_cases hdc' : d' = c
      · subst hdc'
        rw [tag] at hd'
        cases hd'
        exact fresh d hd
      · rw [others d' hdc'] at hd'
        exact apart d d' hne n hd hd'

theorem CarriagesReady.cutLook (h : CarriagesReady s) : CarriagesReady s.cutLook :=
  State.cutLook_keeps h fun _ _ _ ht _ hc => ht.applyCutGrant (State.carriageFor_eligible hc)

/-! ### The cut lists -/

theorem CarriagesReady.joinCut (h : CarriagesReady s) (v : Vat) : CarriagesReady (s.joinCut v) := by
  unfold State.joinCut
  split <;> exact h

theorem CarriagesReady.returnCut (h : CarriagesReady s) (v : Vat) : CarriagesReady (s.returnCut v) := by
  unfold State.returnCut
  split <;> exact h

theorem CarriagesReady.enterCutWindow (h : CarriagesReady s) (v : Vat) : CarriagesReady (s.enterCutWindow v) :=
  CarriagesReady.joinCut (s := s.modVat v _) h v

theorem CarriagesReady.moveUrgent (h : CarriagesReady s) (hm : s.moveUrgent v = some t) : CarriagesReady t := by
  unfold State.moveUrgent at hm
  split at hm
  · cases hm
    exact h
  · cases hm

theorem CarriagesReady.marginSet (h : CarriagesReady s) : CarriagesReady s.marginSet := by
  unfold State.marginSet
  split
  · exact CarriagesReady.cutLook (s := s.moveAllUrgent) h
  · exact h

/-! ### Withdrawals -/

/-- An order withdrawn whose entry returns to its list: what its carriage becomes decides (R34, R100). -/
theorem CarriagesReady.withdrawCut_returned {cause : WithdrawCause} {faulted : Bool}
    (h : CarriagesReady (s.modCarriage c fun k => k.withdrawn s.clock faulted)) (hc : cause ≠ .cutClose) :
    CarriagesReady (s.withdrawCut c v cause faulted) := by
  unfold State.withdrawCut
  dsimp only
  rw [if_neg hc]
  exact CarriagesReady.returnCut (s := (s.modCarriage c fun k => k.withdrawn s.clock faulted).modVat v _) h v

/-- A carriage whose order is withdrawn without a strike. -/
theorem CarriagesReady.withdrawn (h : CarriagesReady s) (hs : (s.carriage c).state = .ordered) :
    CarriagesReady (s.modCarriage c fun k => k.withdrawn s.clock false) :=
  h.modCarriage ((h.sound c).withdrawn hs s.clock) (.inl rfl)

/-- The order of a vat whose cut-close is reached: its tag, which stands no more, becomes late (R33, R97, R100). -/
theorem CarriagesReady.withdrawCut_closed (h : CarriagesReady s) (hs : (s.carriage c).state = .ordered) :
    CarriagesReady (s.withdrawCut c v .cutClose false) := by
  refine CarriagesReady.joinLate (h.withdrawn hs) (s.carriage c).tag fun n hn => ⟨(h.sound c).tagRange n hn, fun d => ?_⟩
  by_cases hd : d = c
  · subst hd
    rw [State.modCarriage_carriage_same]
    rintro ⟨⟩
  · rw [State.modCarriage_carriage_ne _ _ hd]
    obtain ⟨-, -, -, apart⟩ := h
    exact apart c d (Ne.symm hd) n hn

theorem CarriagesReady.withdrawOrder (h : CarriagesReady s) (c : Carriage) {cause : WithdrawCause}
    (hc : cause ≠ .cutClose) : CarriagesReady (s.withdrawOrder c cause) := by
  unfold State.withdrawOrder
  split
  · rename_i hs _
    exact (h.withdrawn hs).withdrawCut_returned hc
  · exact h

theorem CarriagesReady.withdrawForAbsence (h : CarriagesReady s) : CarriagesReady s.withdrawForAbsence := by
  unfold State.withdrawForAbsence
  split <;> exact (h.withdrawOrder _ (by decide)).withdrawOrder _ (by decide)

/-! ### The events of the carriages and of the vat table -/

theorem CarriagesReady.raiseOverset (h : CarriagesReady s) (v : Vat) : CarriagesReady (s.raiseOverset v) := h

theorem CarriagesReady.raiseCarriageFault (h : CarriagesReady s) (c : Carriage) (cause : CarriageFaultCause) :
    CarriagesReady (s.raiseCarriageFault c cause) := h

theorem CarriagesReady.applyCutOpen (h : CarriagesReady s) (v : Vat) : CarriagesReady (s.applyCutOpen v) := by
  unfold State.applyCutOpen
  split
  · exact h
  · exact (h.enterCutWindow v).cutLook

theorem CarriagesReady.applyUrgency (h : CarriagesReady s) (v : Vat) : CarriagesReady (s.applyUrgency v) := by
  unfold State.applyUrgency
  split
  · rename_i hm
    exact (h.moveUrgent hm).cutLook
  · exact h

theorem State.orderedFor_ordered (h : s.orderedFor v = some c) : (s.carriage c).state = .ordered := by
  unfold State.orderedFor at h
  split at h
  · split at h
    · rename_i hs
      cases h
      exact hs
    · cases h
  · cases h

theorem CarriagesReady.applyCutClose (h : CarriagesReady s) (v : Vat) : CarriagesReady (s.applyCutClose v) := by
  unfold State.applyCutClose
  split
  · rename_i c hc
    exact ((h.withdrawCut_closed (State.orderedFor_ordered hc)).raiseOverset v).cutLook
  · exact h

theorem CarriagesReady.applyHealMin (h : CarriagesReady s) (v : Vat) : CarriagesReady (s.applyHealMin v) := by
  unfold State.applyHealMin
  split_ifs
  · exact h
  · exact (h.line (.queueRoutine s v)).lineLook
  · exact (h.line (.queueDump s v _ _)).lineLook

theorem CarriagesReady.healMinAtOnce (h : CarriagesReady s) (v : Vat) : CarriagesReady (s.healMinAtOnce v) := by
  unfold State.healMinAtOnce
  split
  · exact h.applyHealMin v
  · exact h

theorem CarriagesReady.healMinAfterCut (h : CarriagesReady s) (v : Option Vat) : CarriagesReady (s.healMinAfterCut v) := by
  cases v with
  | none => exact h
  | some v => exact h.healMinAtOnce v

theorem CarriagesReady.applyHealMax (h : CarriagesReady s) (v : Vat) : CarriagesReady (s.applyHealMax v) := by
  unfold State.applyHealMax
  split
  · exact h
  · split
    · rename_i hm
      exact (h.line (.moveLate hm)).lineLook
    · exact h

theorem CarriagesReady.advance (h : CarriagesReady s) (v : Vat) : CarriagesReady (s.advance v) := by
  unfold State.advance
  split
  · exact h
  · exact (h.enterCutWindow v).cutLook
  · exact (h.line (.queueDump s v _ _)).lineLook

theorem CarriagesReady.applyCutStartExpiry (h : CarriagesReady s) (hs : (s.carriage c).state = .ordered) :
    CarriagesReady (s.applyCutStartExpiry c) := by
  unfold State.applyCutStartExpiry
  split
  · exact h
  · rename_i v _
    have struck : CarriagesReady ((s.modCarriage c fun k => { k with missed := k.missed + 1 }).modCarriage c fun k =>
        k.withdrawn s.clock (decide (s.settings.strikes ≤ (s.carriage c).missed + 1))) := by
      rw [State.modCarriage_modCarriage]
      exact h.modCarriage ((h.sound c).struck hs h.strikes s.clock) (.inl (CarriageRecord.withdrawn_tag _ _ _))
    have withdrawn := struck.withdrawCut_returned (v := v) (cause := .startLimit) (by decide)
    refine CarriagesReady.cutLook ?_
    split
    · exact withdrawn.raiseCarriageFault c _
    · exact withdrawn

theorem CarriagesReady.applySliceExpiry (h : CarriagesReady s) (hs : (s.carriage c).state = .cutting) :
    CarriagesReady (s.applySliceExpiry c) :=
  h.modCarriage (f := fun k => { k with state := .faulted, faultCause := some .slice, slice := none })
    ((h.sound c).sliced hs) (.inr rfl)

theorem CarriagesReady.applyDumpStartExpiry (h : CarriagesReady s) : CarriagesReady s.applyDumpStartExpiry := by
  unfold State.applyDumpStartExpiry
  split
  · exact (h.line (.withdrawDump s _ _)).lineLook
  · exact h

/-! ### The requests of the Cut link and of the Console link -/

theorem CarriagesReady.modVatOf (h : CarriagesReady s) (v : Option Vat) (f : VatRecord → VatRecord) :
    CarriagesReady (s.modVatOf v f) := by
  cases v <;> exact h

theorem CarriagesReady.startCut (h : CarriagesReady s) (hs : (s.carriage c).state = .ordered) :
    CarriagesReady (s.startCut c) :=
  (h.modCarriage ((h.sound c).started_of_ordered hs _ _) (.inr rfl)).modVatOf _ _

theorem CarriagesReady.endCut (h : CarriagesReady s)
    (hs : (s.carriage c).state = .cutting ∨ (s.carriage c).state = .faulted) : CarriagesReady (s.endCut c) := by
  rw [State.endCut_eq]
  exact (h.modCarriage ((h.sound c).afterCut hs s.clock) (.inl (CarriageRecord.afterCut_tag _ _))).modVatOf _ _

theorem CarriagesReady.block (h : CarriagesReady s) (c : Carriage) (on : Bool) :
    CarriagesReady (s.modCarriage c fun k => { k with blocked := on }) :=
  h.modCarriage ((h.sound c).withBlocked on) (.inr rfl)

theorem State.discardable_faulted (hd : s.discardable v = true) (hs : (s.vat v).stage = .cutting)
    (hc : (s.vat v).carriage = some c) : (s.carriage c).state = .faulted := by
  simpa [State.discardable, hs, hc] using hd

theorem CarriagesReady.discard (h : CarriagesReady s) (hd : s.discardable v = true) : CarriagesReady (s.discard v) := by
  have hr : CarriagesReady ((s.leaveCut v).releaseCarriageOf v) := by
    unfold State.releaseCarriageOf
    split
    · rename_i c hs hc
      exact CarriagesReady.modCarriage (s := s.leaveCut v) h
        ((h.sound c).released (State.discardable_faulted hd hs hc)) (.inl rfl)
    · exact h
  exact (CarriagesReady.line (s := ((s.leaveCut v).releaseCarriageOf v).modVat v _) hr (.queueDump _ v _ _)).lineLook

theorem CarriagesReady.declareVat (h : CarriagesReady s) (d : Declaration) (v : Vat) :
    CarriagesReady (s.declareVat d v) := by
  unfold State.declareVat
  dsimp only
  split
  · exact CarriagesReady.healMinAtOnce (s := (s.modVat v _).modVat v _) h v
  · exact (CarriagesReady.line (s := s.modVat v _) h (.joinDump _ v _ _)).lineLook
  · exact h

theorem CarriagesReady.endDump (h : CarriagesReady s) (x : Lot) (received : Nat) :
    CarriagesReady (s.endDump x received) := by
  have finish : ∀ {m : State}, CarriagesReady m → CarriagesReady (m.finishLot x received) := fun hm => by
    unfold State.finishLot State.raiseShort
    split_ifs <;> exact hm
  refine CarriagesReady.lineLook (CarriagesReady.bank ?_ (.queueWash _ x.vat))
  exact (finish (m := s.modLine _) h).congr rfl rfl rfl rfl

theorem CarriagesReady.cancelCurrent (h : CarriagesReady s) (b : Bank) (c : Current) :
    CarriagesReady (s.cancelCurrent b c) := by
  unfold State.cancelCurrent
  split
  · exact h
  · exact h.bank (((BankWork.modBank b s _).trans (.endFill b _ _)).trans (.afterTransfer b _))

/-! ### SET and the links -/

theorem CarriagesReady.becomeAbsent (h : CarriagesReady s) (l : Link) (cause : AbsentCause) :
    CarriagesReady (s.becomeAbsent l cause) := by
  have ht : CarriagesReady (s.markedAbsent l cause) := h
  unfold State.becomeAbsent
  split
  · cases l with
    | fill => exact ht.banks (.parkLooks _ _)
    | cut => exact ht.withdrawForAbsence.cutLook
    | press => exact ht
    | console => exact ht
  · exact h

/-- A SET keeps the strikes setting in its range (R113). -/
theorem Settings.put_strikes_le {x : Settings} {i : Item} {n : Nat} (hx : x.strikes ≤ 8) (ha : x.allows i n = true) :
    (x.put i n).strikes ≤ 8 := by
  cases i
  case strikes =>
    simp only [Settings.allows, within, decide_eq_true_eq] at ha
    exact ha.2
  all_goals exact hx

theorem CarriagesReady.put {i : Item} {n : Nat} (h : CarriagesReady s) (ha : s.settings.allows i n = true) :
    CarriagesReady { s with settings := s.settings.put i n } := by
  obtain ⟨⟨sound, strikes, counter⟩, late⟩ := h
  exact ⟨⟨sound, Settings.put_strikes_le strikes ha, counter⟩, late⟩

theorem CarriagesReady.actOnSet (h : CarriagesReady s) (i : Item) : CarriagesReady (s.actOnSet i) := by
  cases i
  case urgencyMargin => exact h.marginSet
  case reachLow => exact h.cutLook
  case reachHigh => exact h.cutLook
  case pathOpenLimit => exact h.banks (.pathLimitSet s)
  case parkDelay => exact h.banks (.parkDelaySet s)
  case presenceTimeout =>
    exact State.forEachFreely_keeps CarriagesReady s _ _ h (fun _ => h) fun l _ _ ht => ht.becomeAbsent l _
  all_goals exact h

theorem CarriagesReady.setItem {i : Item} {n : Nat} (h : CarriagesReady s) (ha : s.settings.allows i n = true) :
    CarriagesReady (s.setItem i n) := by
  unfold State.setItem
  split
  · exact h
  · exact (h.put ha).actOnSet i

theorem CarriagesReady.remap (h : CarriagesReady s) (slot : Slot) (y : Option Vat) : CarriagesReady (s.remap slot y) := by
  have hw : ∀ {m : State} (y : Option Vat) (n : Option Slot), CarriagesReady m → CarriagesReady (m.writeSlot y n) :=
    fun y _ hm => by cases y <;> exact hm
  exact hw y _ (hw _ _ h)

theorem CarriagesReady.heard (h : CarriagesReady s) (l : Link) : CarriagesReady (s.heard l) := by
  have ht : CarriagesReady ((s.modLink l fun u => { u with presence := some 0 }).raise .console (.stationPresent l)) := h
  unfold State.heard State.becomePresent
  split_ifs
  · exact h
  · exact h
  · cases l with
    | fill => exact ht.banks (.bankLooks _ _ _)
    | cut => exact ht.cutLook
    | press => exact ht.lineLook
    | console => exact ht

theorem CarriagesReady.closeFrame (h : CarriagesReady s) (l : Link) (f : OpenFrame) :
    CarriagesReady (s.closeFrame l f) := by
  unfold State.closeFrame
  split
  · exact h
  · exact CarriagesReady.heard (s := s.modLink l _) h l

theorem CarriagesReady.receive (h : CarriagesReady s) (l : Link) (x : Character) : CarriagesReady (s.receive l x) := by
  unfold State.receive
  split
  · exact h
  · split <;> exact h
  · exact h
  · split_ifs
    · exact h.closeFrame l _
    · exact h
    · exact h

theorem CarriagesReady.lookAtRoom (h : CarriagesReady s) (l : Link) : CarriagesReady (s.lookAtRoom l) := by
  cases l with
  | fill => exact h
  | cut => exact h.cutLook
  | press => exact h.lineLook
  | console => exact h

/-! ### The resets and the tick -/

theorem CarriagesReady.reset : CarriagesReady State.reset := by
  obtain ⟨-, -, -, -, carriages, late, -⟩ := RoomHolds.reset
  exact ⟨carriages, late⟩

theorem CarriagesReady.restartNow (h : CarriagesReady s) : CarriagesReady s.restartNow := by
  obtain ⟨⟨sound, -, counter⟩, late⟩ := CarriagesReady.reset
  exact ⟨⟨sound, h.strikes, counter⟩, late⟩

theorem CarriagesReady.breakLine (h : CarriagesReady s) (l : Link) : CarriagesReady (s.breakLine l) := by
  have ht : CarriagesReady ((s.silenced l).becomeAbsent l .lineBreak) :=
    CarriagesReady.becomeAbsent (s := s.silenced l) h l _
  unfold State.breakLine
  dsimp only
  split
  · exact ht.restartNow
  · exact ht

theorem CarriagesReady.tick (h : CarriagesReady s) : CarriagesReady s.tick := by
  obtain ⟨⟨sound, counter⟩, nodup, late, apart⟩ := h
  have hcar : ∀ c, s.tick.carriage c = (s.carriage c).tick := fun c => by simp [State.tick, State.carriage]
  have htag : ∀ c, (s.tick.carriage c).tag = (s.carriage c).tag := fun c => by rw [hcar]; rfl
  refine ⟨⟨fun c => ?_, counter⟩, nodup, fun n hn => ?_, fun c c' hne n hc => ?_⟩
  · rw [hcar]
    exact (sound c).tick
  · obtain ⟨low, high, free⟩ := late n hn
    refine ⟨low, high, State.standing?_eq_none.mpr fun c => ?_⟩
    rw [htag]
    exact State.standing?_eq_none.mp free c
  · rw [htag] at hc ⊢
    exact apart c c' hne n hc

/-! ### Every step -/

theorem CarriagesReady.effect (h : CarriagesReady s) (he : Effect s t) : CarriagesReady t := by
  cases he with
  | orderFill o v => exact CarriagesReady.bank (s := s.modVat v _) h (.joinTransfer _ _ _)
  | cancelQueued v => exact CarriagesReady.bank (s := (s.dropTransfer _ v).clearVat v) h (.parkLook _ _)
  | cancelListed v => exact CarriagesReady.bank (s := s.dropTransfer _ v) h ((BankWork.endFill _ _ v).trans (.parkLook _ _))
  | cancelCurrent c => exact h.cancelCurrent _ c
  | startCut c ordered => exact h.startCut ordered
  | endCut c cutting => exact (h.endCut (.inl cutting)).cutLook.healMinAfterCut _
  | endCutLate c faulted => exact (h.endCut (.inr faulted)).healMinAfterCut _
  | refuseCut c => exact (h.withdrawOrder c (by decide)).cutLook
  | block c => exact h.block c true
  | blockOrdered c => exact ((h.block c true).withdrawOrder c (by decide)).cutLook
  | unblock c => exact (h.block c false).cutLook
  | resume => exact CarriagesReady.cutLook (s := { s with routinePause := false }) h
  | endDump n x received => exact h.endDump x received
  | refuseDump n x => exact (h.line (.withdrawDump s x _)).lineLook
  | closeLot n x => exact CarriagesReady.lineLook (s := s.removeLot x.number) h
  | mouldsReady => exact CarriagesReady.lineLook (s := s.modLine _) h
  | hold v => exact CarriagesReady.banks (s := s.modVat v _) h (.parkLooks _ _)
  | release v => exact (CarriagesReady.banks (s := s.modVat v _) h (.bankLooks _ _ _)).cutLook.lineLook
  | stepModeOff v => exact CarriagesReady.advance (s := s.modVat v _) h v
  | step v => exact h.advance v
  | dumpEarly v => exact (CarriagesReady.line (s := s.modVat v _) h (.queueDump _ v _ _)).lineLook
  | releaseOverset v => exact (CarriagesReady.enterCutWindow (s := s.modVat v _) h v).cutLook
  | discard v discardable => exact h.discard discardable
  | abandon n x =>
    exact (CarriagesReady.bank (s := (s.removeLot x.number).modLine _) h (.queueWash _ x.vat)).lineLook
  | freezeBanks on =>
    unfold State.freezeBanks
    dsimp only
    split
    · exact CarriagesReady.banks (s := { s with frozen := { s.frozen with banks := on } }) h (.bankLooks _ _ _)
    · exact h
  | freezeCarriages on =>
    unfold State.freezeCarriages
    dsimp only
    split
    · exact CarriagesReady.cutLook (s := { s with frozen := { s.frozen with carriages := on } }) h
    · exact h
  | freezeLine on =>
    unfold State.freezeLine
    dsimp only
    split
    · exact CarriagesReady.lineLook (s := { s with frozen := { s.frozen with line := on } }) h
    · exact h
  | clearCarriage c faulted empty =>
    have tag : (s.carriage c).tag = none := by
      simpa [empty] using (h.sound c).holds
    exact (h.modCarriage ((h.sound c).cleared faulted empty _) (.inl tag)).cutLook
  | clearLine => exact CarriagesReady.lineLook (s := s.modLine _) h
  | setItem i n allowed => exact h.setItem allowed
  | mapSlot slot v => exact h.remap slot _
  | unmapSlot slot => exact h.remap slot _
  | declare d v => exact h.declareVat d v
  | _ => exact h

/-- What both branches of an event keep, the event keeps. -/
theorem keeps_of_next_ite {P : State → Prop} {x : Prop} [Decidable x] {m n : State} (hm : x → P m) (hn : ¬x → P n)
    (h : Host.Outcome.next (φ := Fault) (ρ := Refusal) (if x then m else n) = .next t) : P t := by
  cases h
  split
  · rename_i hx
    exact hm hx
  · rename_i hx
    exact hn hx

/-- An event that comes about only when it is due. -/
theorem CarriagesReady.of_due {d : Bool} (h : CarriagesReady s) (hu : d = true → CarriagesReady u)
    (ht : Host.Outcome.next (φ := Fault) (ρ := Refusal) (if (!s.inReset && d) = true then u else s) = .next t) :
    CarriagesReady t :=
  keeps_of_next_ite (fun hd => hu (Bool.and_eq_true_iff.mp hd).2) (fun _ => h) ht

/-- An event of a bank that comes about only when it is due. -/
theorem CarriagesReady.of_due_bank {d : Bool} {b : Bank} (h : CarriagesReady s) (hu : BankWork b s u)
    (ht : Host.Outcome.next (φ := Fault) (ρ := Refusal) (if (!s.inReset && d) = true then u else s) = .next t) :
    CarriagesReady t := h.of_due (fun _ => h.bank hu) ht

/-- An event that comes about unless something forbids it. -/
theorem CarriagesReady.of_not {x : Prop} [Decidable x] (h : CarriagesReady s) (hu : CarriagesReady u)
    (ht : Host.Outcome.next (φ := Fault) (ρ := Refusal) (if x then s else u) = .next t) : CarriagesReady t :=
  keeps_of_next_ite (fun _ => h) (fun _ => hu) ht

theorem State.cutStartDue_ordered (h : s.cutStartDue c = true) : (s.carriage c).state = .ordered :=
  of_decide_eq_true (Bool.and_eq_true_iff.mp h).1

theorem State.sliceDue_cutting (h : s.sliceDue c = true) : (s.carriage c).state = .cutting :=
  of_decide_eq_true (Bool.and_eq_true_iff.mp h).1

theorem CarriagesReady.exec {i : Instr} (hs : CarriagesReady s) (h : exec i s = .next t) : CarriagesReady t := by
  induction i using Instr.cases_request with
  | request l edit r =>
    rw [exec_ofRequest] at h
    cases h
    rcases State.takeRequest_effect r l edit s with e | ⟨f, x, d, e⟩
    · rwa [e]
    · exact CarriagesReady.effect (s := s.answered l edit f x d) hs e
  | powerOnReset =>
    cases h
    exact .reset
  | resetnAsserted => exact hs.of_not (u := s.holdReset) hs h
  | resetRelease =>
    cases h
    split
    · exact .reset
    · exact hs
  | frameClosed l =>
    cases h
    split
    · split
      · exact hs
      · exact hs.closeFrame l _
    · exact hs
  | frameAbandoned l =>
    cases h
    split
    · split <;> exact hs
    · exact hs
  | lineBreak l => exact hs.of_not (hs.breakLine l) h
  | presenceTimeout l => exact hs.of_due (fun _ => hs.becomeAbsent l _) h
  | frameSendStart l =>
    cases h
    split
    · split
      · exact hs
      · rename_i u _ _
        exact CarriagesReady.lookAtRoom (s := s.setLink l u) hs l
    · exact hs
  | frameSent l =>
    cases h
    split_ifs
    · exact hs
    · exact hs.restartNow
    · exact hs
  | cutOpenReached v => exact hs.of_due (fun _ => hs.applyCutOpen v) h
  | urgencyMoment v => exact hs.of_due (fun _ => hs.applyUrgency v) h
  | cutCloseReached v => exact hs.of_due (fun _ => hs.applyCutClose v) h
  | healMinReached v => exact hs.of_due (fun _ => hs.applyHealMin v) h
  | healMaxReached v => exact hs.of_due (fun _ => hs.applyHealMax v) h
  | provedRise b =>
    cases h
    split_ifs
    · exact hs
    · exact hs
    · exact CarriagesReady.bank (s := s.seeProved b true) hs (.applyProvedRise b _)
  | provedFall b =>
    cases h
    split_ifs
    · exact hs
    · exact hs
    · exact CarriagesReady.bank (s := s.seeProved b false) hs (.applyProvedFall b _)
  | flowPulse b => exact hs.of_not (hs.bank (.applyFlow b s)) h
  | travelTimerExpiry b => exact hs.of_due_bank (.faultBank b s _) h
  | drainTimerExpiry b => exact hs.of_due_bank (.endDrain b s) h
  | pathOpenLimit b => exact hs.of_due_bank (.expirePath b s) h
  | noFlowTimerExpiry b => exact hs.of_due_bank (.applyNoFlow b s) h
  | flushTimerExpiry b => exact hs.of_due_bank (.applyFlushExpiry b s) h
  | rinseCounterMatch b => exact hs.of_due_bank (.applyRinseMatch b s) h
  | rinseTimerExpiry b => exact hs.of_due_bank (.enterReady b s) h
  | parkTimerExpiry b => exact hs.of_due_bank (.parkBank b s) h
  | parkDrainEnd b => exact hs.of_due_bank (.modBank b s _) h
  | cutStartTimerExpiry c => exact hs.of_due (fun hd => hs.applyCutStartExpiry (State.cutStartDue_ordered hd)) h
  | sliceTimerExpiry c => exact hs.of_due (fun hd => hs.applySliceExpiry (State.sliceDue_cutting hd)) h
  | dumpStartTimerExpiry => exact hs.of_due (fun _ => hs.applyDumpStartExpiry) h
  | dumpDurationExpiry => exact hs.of_due (u := s.applyDurationExpiry) (fun _ => hs) h
  | characterReceived l x => exact hs.of_not (hs.receive l x) h
  | lineReturnedToMark l => exact hs.of_not (u := s.modLink l _) hs h

/-- Settles O10: a sound record has one of five shapes, and each act of the arbiter takes a shape to a shape; a grant issues a
tag that no record holds, and a tag becomes late as it leaves its record. -/
theorem everyStepKeepsCarriages : Obligations.EveryStepKeepsCarriages := by
  intro s t hs hstep
  rcases step_cases hstep with ⟨i, p, d, h⟩ | ⟨d, rfl⟩ | rfl
  · exact CarriagesReady.exec (s := { s with pending := p, drawn := d }) hs h
  · exact CarriagesReady.tick (s := { s with drawn := d }) hs
  · exact hs

end Sys2Proof.Machine
end

section
/-! PROOFS. The requests about the arbiters: when an entry is eligible (O36), the order tags of the Cut link (O32), the marks
that the stations set and clear (O35), and CLEAR of a carriage and of the line (O47). -/

namespace Sys2Proof.Machine

variable {s : State} {l : Link} {edit : Bool} {f : Frame} {c : Carriage}

/-! ### Eligibility -/

/-- Settles O36: the five conditions of R92, in the order of the rule. -/
theorem eligibleForCarriage : Obligations.EligibleForCarriage := by
  intro s e c
  constructor
  · intro h
    obtain ⟨free, unblocked, held, low, high⟩ := State.cutEligible_iff.mp h
    exact ⟨free, unblocked, low, high, held⟩
  · rintro ⟨free, unblocked, low, high, held⟩
    exact State.cutEligible_iff.mpr ⟨free, unblocked, held, low, high⟩

/-! ### Order tags -/

/-- A tag that no carriage record holds is answered by the late-tag set (R98). -/
theorem State.onTag_missing {a : Asking} (rest : Carriage → State) (ht : a.frame.byteAt 0 ≠ 0)
    (hn : s.standing? (a.frame.byteAt 0) = none) : s.onTag a rest = s.refuseTag a (a.frame.byteAt 0) := by
  rw [State.onTag, tagOf?_byteAt ht, State.inRange_some]
  simp only [hn]

/-- The three rows that name an order tag match it before all else, and refuse a carriage in the wrong state (R98). -/
theorem ownerOf_namesTag {r : Request} (hr : r = .cutStarted ∨ r = .cutDone ∨ r = .cutRefused) (a : Asking) (s : State) :
    ∃ rest, ownerOf r a s = s.onTag a rest ∧
      ∀ c, (r = .cutDone ∧ (s.carriage c).state = .ordered) ∨ (r ≠ .cutDone ∧ (s.carriage c).state ≠ .ordered) →
        rest c = s.refuse a .stage := by
  rcases hr with rfl | rfl | rfl
  · exact ⟨_, rfl, fun c h => if_neg (h.resolve_left fun h => nomatch h.1).2⟩
  · refine ⟨_, rfl, fun c h => ?_⟩
    obtain ⟨-, hs⟩ := h.resolve_right fun h => h.1 rfl
    simp only [hs]
  · exact ⟨_, rfl, fun c h => if_neg (h.resolve_left fun h => nomatch h.1).2⟩

/-- A tag of 0 is out of the range of each row that names one (R98). -/
theorem fieldsInRange_of_tag_zero {r : Request} (hr : r = .cutStarted ∨ r = .cutDone ∨ r = .cutRefused)
    (h : f.byteAt 0 = 0) (x : Settings) : fieldsInRange x r f = false := by
  rcases hr with rfl | rfl | rfl <;> simp [fieldsInRange, within, h]

/-- Settles O32: the range of the tag, the carriage records, the late-tag set and the carriage's state decide in that order. -/
theorem tagsAreMatched : Obligations.TagsAreMatched := by
  intro s l edit f r hr ha
  obtain ⟨rest, howner, hstage⟩ := ownerOf_namesTag hr ⟨l, f⟩ (s.taken l edit)
  obtain ⟨-, hrange, -⟩ := firstChecksDecide
  refine ⟨fun hz => hrange s l edit r f ha (fieldsInRange_of_tag_zero hr hz _), fun ht hno => ?_, fun c ht hc hs => ?_⟩
  · have refused : exec (.ofRequest l edit r) s =
        .next (s.answered l edit f (if f.byteAt 0 ∈ s.lateTags then .late else .tag) []) := by
      rw [exec_of_asks ha, howner,
        State.onTag_missing (s := s.taken l edit) (a := ⟨l, f⟩) rest ht (State.standing?_eq_none.mpr hno)]
      rfl
    rw [refused]
    exact ⟨fun h => by rw [if_pos h], fun h => by rw [if_neg h]⟩
  · rw [exec_of_asks ha, howner, State.onTag_standing (s := s.taken l edit) (a := ⟨l, f⟩) rest ht hc, hstage c hs,
      State.refuse_taken]

/-! ### Marks that are set and cleared -/

/-- An asked CARRIAGE UNBLOCK (R107). -/
theorem exec_carriageUnblock (ha : Asks s l edit .carriageUnblock f) (hc : carriageOf? (f.byteAt 0) = some c) :
    exec (.carriageUnblock l edit) s = .next (if (s.carriage c).blocked then
      ((s.answered l edit f .done []).modCarriage c fun k => { k with blocked := false }).cutLook
      else s.answered l edit f .done []) := by
  refine (exec_of_asks ha).trans (congrArg _ ?_)
  change State.applyUnblock ⟨l, f⟩ (s.taken l edit) = _
  rw [State.applyUnblock, hc, State.inRange_some]
  rfl

/-- An asked ROUTINE RESUME (R108). -/
theorem exec_routineResume (ha : Asks s l edit .routineResume f) : exec (.routineResume l edit) s = .next
    (if s.routinePause then State.cutLook { s.answered l edit f .done [] with routinePause := false }
      else s.answered l edit f .done []) := exec_of_asks ha

/-- An asked MOULDS READY (R133). -/
theorem exec_mouldsReady (ha : Asks s l edit .mouldsReady f) : exec (.mouldsReady l edit) s = .next
    (if s.line.mouldsLow then ((s.answered l edit f .done []).modLine fun k => { k with mouldsLow := false }).lineLook
      else s.answered l edit f .done []) := exec_of_asks ha

/-- Settles O35: PAUSE and LOW set their marks whatever they were, and UNBLOCK, RESUME and READY act on a mark that is set. -/
theorem stationMarksSetAndClear : Obligations.StationMarksSetAndClear := by
  refine ⟨fun s l edit f => ⟨fun c ha hc => ⟨fun hb => ?_, fun hb => ?_⟩, fun ha => exec_of_asks ha,
      fun ha => ⟨fun hp => ?_, fun hp => ?_⟩⟩,
    fun s l edit f => ⟨fun ha => exec_of_asks ha, fun ha => ⟨fun hm => ?_, fun hm => ?_⟩⟩⟩
  · rw [exec_carriageUnblock ha hc, if_pos hb]
  · rw [exec_carriageUnblock ha hc, if_neg (by simp [hb])]
  · rw [exec_routineResume ha, if_pos hp]
  · rw [exec_routineResume ha, if_neg (by simp [hp])]
  · rw [exec_mouldsReady ha, if_pos hm]
  · rw [exec_mouldsReady ha, if_neg (by simp [hm])]

/-! ### CLEAR of a carriage and of the line (R112, R131, R168) -/

/-- An asked CLEAR of a carriage. -/
theorem exec_clearCarriage (ha : Asks s l edit .clearCarriage f) (h₁ : f.byteAt 0 = 2)
    (hc : carriageOf? (f.byteAt 1) = some c) : exec (.clearCarriage l edit) s = .next
      (if (s.carriage c).state = .faulted ∧ (s.carriage c).vat = none then
        ((s.answered l edit f .done []).modCarriage c fun k =>
          { k with state := .free, faultCause := none, missed := 0, freeSince := s.clock }).cutLook
       else s.answered l edit f .stage []) := by
  refine (exec_of_asks ha).trans (congrArg _ ?_)
  change State.applyClearCarriage ⟨l, f⟩ (s.taken l edit) = _
  rw [State.applyClearCarriage, Frame.clearNumber, if_pos h₁, hc, State.inRange_some]
  rfl

/-- An asked CLEAR of the line, whose number is 0. -/
theorem exec_clearLine (ha : Asks s l edit .clearLine f) (h₁ : f.byteAt 0 = 3) (h₂ : f.byteAt 1 = 0) :
    exec (.clearLine l edit) s = .next
      (if s.line.state = .faulted ∧ s.line.current = none then
        ((s.answered l edit f .done []).modLine fun k =>
          { k with state := .free, faultCause := none, freeSince := s.clock }).lineLook
       else s.answered l edit f .stage []) := by
  refine (exec_of_asks ha).trans (congrArg _ ?_)
  change State.applyClearLine ⟨l, f⟩ (s.taken l edit) = _
  rw [State.applyClearLine, Frame.clearNumber, if_pos h₁, if_pos h₂, State.inRange_some]
  rfl

/-- Settles O47: a resource that is FAULTED and holds nothing is FREE again and the arbiter looks; any other is refused. -/
theorem clearFreesCarriageAndLine : Obligations.ClearFreesCarriageAndLine := by
  obtain ⟨-, hrange, -⟩ := firstChecksDecide
  refine fun s l edit f => ⟨fun c ha h₁ hc => ⟨fun hs hv => ?_, fun h => ?_⟩, fun ha h₁ hc => ?_,
    fun ha h₁ h₂ => ⟨fun hs hx => ?_, fun h => ?_⟩⟩
  · rw [exec_clearCarriage ha h₁ hc, if_pos ⟨hs, hv⟩]
  · rw [exec_clearCarriage ha h₁ hc, if_neg (not_and_or.mpr h)]
  · refine hrange s l edit .clearCarriage f ha ?_
    simp only [fieldsInRange, within_carriageOf?, hc, Option.isSome_none, Bool.and_false]
  · rw [exec_clearLine ha h₁ h₂, if_pos ⟨hs, hx⟩]
  · rw [exec_clearLine ha h₁ h₂, if_neg (not_and_or.mpr h)]

end Sys2Proof.Machine
end

section
/-! PROOFS. The marks that a reply carries, and the room that a message leaves as its frame begins (O21). -/

namespace Sys2Proof.Machine

variable {s : State} {l : Link}

/-- On an idle link the message at the head of the queue begins to be sent. -/
theorem exec_frameSendStart {m : Message} {rest : List Message} (hr : s.inReset = false)
    (hs : (s.link l).sending = none) (hq : (s.link l).queue = m :: rest) :
    exec (.frameSendStart l) s = .next ((s.modLink l fun u =>
      { u.clearMarksFor m with queue := rest, sending := some ⟨m, u.flagsFor m⟩ }).lookAtRoom l) := by
  have hb : (s.link l).beginSending = some
      { (s.link l).clearMarksFor m with queue := rest, sending := some ⟨m, (s.link l).flagsFor m⟩ } := by
    simp only [LinkUnit.beginSending, hs, hq]
  change Host.Outcome.next _ = _
  simp only [hb, hr, Bool.false_eq_true, if_false]
  rfl

/-- Settles O21: the flags of a message are read as its frame begins, from marks that a reply alone then turns off, and the
arbiter that waits for room in the queue looks. -/
theorem sendingReadsMarks : Obligations.SendingReadsMarks := by
  refine fun s l m rest hr hs hq => ⟨fun kind tag x d hm => ?_, fun n hm => ?_, fun t => ⟨rfl, rfl, rfl, rfl⟩⟩
  · subst hm
    exact exec_frameSendStart hr hs hq
  · subst hm
    exact exec_frameSendStart hr hs hq

end Sys2Proof.Machine
end

section
/-! PROOFS. The expiries of the start and slice timers of a carriage and of the start and duration timers of the curd line
(O60). -/

namespace Sys2Proof.Machine

variable {s : State} {c : Carriage} {v : Vat} {n : Timer} {x : Lot}

/-! ### Events that are due -/

theorem exec_cutStartTimerExpiry (hr : s.inReset = false) (hs : (s.carriage c).state = .ordered)
    (ht : (s.carriage c).start = some n) (hn : n.limit ≤ n.count) :
    exec (.cutStartTimerExpiry c) s = .next (s.applyCutStartExpiry c) :=
  next_of_due hr (by simp [State.cutStartDue, hs, ht, due_of_le hn])

theorem exec_sliceTimerExpiry (hr : s.inReset = false) (hs : (s.carriage c).state = .cutting)
    (ht : (s.carriage c).slice = some n) (hn : n.limit ≤ n.count) :
    exec (.sliceTimerExpiry c) s = .next (s.applySliceExpiry c) :=
  next_of_due hr (by simp [State.sliceDue, hs, ht, due_of_le hn])

theorem exec_dumpStartTimerExpiry (hr : s.inReset = false) (hs : s.line.state = .ordered) (ht : s.line.start = some n)
    (hn : n.limit ≤ n.count) : exec .dumpStartTimerExpiry s = .next s.applyDumpStartExpiry :=
  next_of_due hr (by simp [State.dumpStartDue, hs, ht, due_of_le hn])

theorem exec_dumpDurationExpiry (hr : s.inReset = false) (hs : s.line.state = .running) (ht : s.line.duration = some n)
    (hn : n.limit ≤ n.count) : exec .dumpDurationExpiry s = .next s.applyDurationExpiry :=
  next_of_due hr (by simp [State.dumpDurationDue, hs, ht, due_of_le hn])

/-! ### The start timer of a carriage (R101) -/

/-- The record of an ORDERED carriage that has missed one start more and has lost its order (R100, R101). -/
def CarriageRecord.struck (k : CarriageRecord) (state : CarriageState) (cause : Option CarriageFaultCause) (since : Nat) :
    CarriageRecord :=
  { k with state := state, faultCause := cause, freeSince := since, missed := k.missed + 1, vat := none, tag := none,
           orderedAt := none, start := none }

/-- An order withdrawn by a strike: the carriage in its new state, and the entry back in its list (R34, R100, R101). -/
def State.orderStruck (s : State) (c : Carriage) (v : Vat) (state : CarriageState) (cause : Option CarriageFaultCause)
    (since : Nat) : State :=
  (((s.modCarriage c fun k => k.struck state cause since).modVat v fun r => { r with carriage := none }).returnCut v).raise
    .cut (.orderWithdrawn c (s.carriage c).tag (some v) (s.vat v).slot .startLimit)

theorem State.orderStruck_carriage (v : Vat) (state : CarriageState) (cause : Option CarriageFaultCause) (since : Nat) :
    (s.orderStruck c v state cause since).carriage c = (s.carriage c).struck state cause since := by
  rw [State.orderStruck, State.raise_carriage, State.returnCut_carriage, State.modVat_carriage,
    State.modCarriage_carriage_same]

/-- The withdrawal of an order after a missed start, by what its carriage becomes. -/
theorem State.withdrawCut_struck {faulted : Bool} {state : CarriageState} {cause : Option CarriageFaultCause} {since : Nat}
    (hk : ({ s.carriage c with missed := (s.carriage c).missed + 1 } : CarriageRecord).withdrawn s.clock faulted =
      (s.carriage c).struck state cause since) :
    (s.modCarriage c fun k => { k with missed := k.missed + 1 }).withdrawCut c v .startLimit faulted =
      s.orderStruck c v state cause since := by
  have hm : ((s.modCarriage c fun k => { k with missed := k.missed + 1 }).modCarriage c fun k =>
      k.withdrawn s.clock faulted) = s.modCarriage c fun k => k.struck state cause since := by
    rw [State.modCarriage_modCarriage]
    exact State.modCarriage_congr c hk
  simp only [State.withdrawCut, State.modCarriage_clock, State.modCarriage_carriage_same, State.modCarriage_vat, hm]
  rfl

theorem State.applyCutStartExpiry_of_few (hv : (s.carriage c).vat = some v)
    (hm : (s.carriage c).missed + 1 < s.settings.strikes) :
    s.applyCutStartExpiry c = (s.orderStruck c v .free (s.carriage c).faultCause s.clock).cutLook := by
  have hf : decide (s.settings.strikes ≤ (s.carriage c).missed + 1) = false := decide_eq_false (Nat.not_le.mpr hm)
  simp only [State.applyCutStartExpiry, hv, hf, Bool.false_eq_true, if_false]
  rw [State.withdrawCut_struck rfl]

theorem State.applyCutStartExpiry_of_strikes (hv : (s.carriage c).vat = some v)
    (hm : s.settings.strikes ≤ (s.carriage c).missed + 1) :
    s.applyCutStartExpiry c =
      ((s.orderStruck c v .faulted (some .strikes) (s.carriage c).freeSince).raiseBoth .cut .console
        (.carriageFault c .strikes ((s.carriage c).missed + 1) none none none)).cutLook := by
  have hf : decide (s.settings.strikes ≤ (s.carriage c).missed + 1) = true := decide_eq_true hm
  simp only [State.applyCutStartExpiry, hv, hf, if_true]
  rw [State.withdrawCut_struck rfl, State.raiseCarriageFault, State.orderStruck_carriage]
  rfl

/-! ### The slice timer of a carriage (R104, R111) -/

theorem State.applySliceExpiry_of_holding (hv : (s.carriage c).vat = some v) : s.applySliceExpiry c =
    (s.modCarriage c fun k =>
      { k with state := .faulted, faultCause := some .slice, slice := none }).raiseBoth .cut .console
        (.carriageFault c .slice (s.carriage c).missed (some v) (s.vat v).slot (s.carriage c).tag) := by
  rw [State.applySliceExpiry, State.raiseCarriageFault, State.modCarriage_carriage_same]
  simp only [hv]
  rfl

/-! ### The timers of the curd line (R125, R127) -/

theorem State.applyDumpStartExpiry_of_lot (hx : s.currentLot = some x) :
    s.applyDumpStartExpiry = (s.withdrawDump x .startLimit).lineLook := by
  rw [State.applyDumpStartExpiry, hx]

theorem State.lineFaultNotice_of_lot (hc : s.line.current = some x.number) (hx : s.findLot x.number = some x) :
    s.lineFaultNotice = .lineFault x.number (some x.vat) x.slot (some x.kind) s.line.startedAt .duration := by
  have hl : s.currentLot = some x := by rw [State.currentLot, hc]; exact hx
  rw [State.lineFaultNotice, hl, hc]
  rfl

/-- Settles O60: the strikes decide what a missed start makes of its carriage; a slice and a duration that run out fault what
they time and leave it its vat or its lot; and a dump that does not start gives the line back. -/
theorem arbiterTimers : Obligations.ArbiterTimers := by
  refine fun s n hr hn => ⟨fun c v hs ht hv => ⟨fun hm => ?_, fun hm => ?_⟩, fun c v hs ht hv => ?_,
    fun x hs ht hx => ?_, fun x hs ht hc hx => ?_⟩
  · rw [exec_cutStartTimerExpiry hr hs ht hn, State.applyCutStartExpiry_of_few hv hm]
    rfl
  · rw [exec_cutStartTimerExpiry hr hs ht hn, State.applyCutStartExpiry_of_strikes hv hm]
    rfl
  · rw [exec_sliceTimerExpiry hr hs ht hn, State.applySliceExpiry_of_holding hv]
  · rw [exec_dumpStartTimerExpiry hr hs ht hn, State.applyDumpStartExpiry_of_lot hx, State.withdrawDump,
      LotKind.entryKind_eq]
    rfl
  · rw [exec_dumpDurationExpiry hr hs ht hn, State.applyDurationExpiry, State.lineFaultNotice_of_lot hc hx]

end Sys2Proof.Machine
end

section
/-! PROOFS. The five shapes of a sound line record, and the acts by which anything changes the line record, the lot list and
the early window: each takes a shape to a shape, and keeps the list and the window within their room. -/

namespace Sys2Proof.Machine

/-! ### The line record -/

namespace LineRecord

variable {k k' : LineRecord}

/-- The shapes that R116 gives the line record; FAULTED it still holds its lot, or holds none. -/
inductive Shape : LineRecord → Prop
  | free (low : Bool) (counter since : Nat) (range : 1 ≤ counter ∧ counter ≤ 4095) :
      Shape ⟨.free, none, none, none, none, none, none, low, counter, since⟩
  | ordered (lot granted : Nat) (start : Timer) (low : Bool) (counter since : Nat)
      (range : 1 ≤ counter ∧ counter ≤ 4095) :
      Shape ⟨.ordered, some lot, some start, none, some granted, none, none, low, counter, since⟩
  | running (lot granted began : Nat) (duration : Timer) (low : Bool) (counter since : Nat)
      (range : 1 ≤ counter ∧ counter ≤ 4095) :
      Shape ⟨.running, some lot, none, some duration, some granted, some began, none, low, counter, since⟩
  | holding (lot granted began : Nat) (cause : LineFaultCause) (low : Bool) (counter since : Nat)
      (range : 1 ≤ counter ∧ counter ≤ 4095) :
      Shape ⟨.faulted, some lot, none, none, some granted, some began, some cause, low, counter, since⟩
  | empty (cause : LineFaultCause) (low : Bool) (counter since : Nat) (range : 1 ≤ counter ∧ counter ≤ 4095) :
      Shape ⟨.faulted, none, none, none, none, none, some cause, low, counter, since⟩

theorem Shape.sound (h : k.Shape) : k.Sound := by
  cases h <;> constructor <;> simp_all

theorem Sound.shape (h : k.Sound) : k.Shape := by
  obtain ⟨state, current, start, duration, orderedAt, startedAt, faultCause, low, counter, since⟩ := k
  obtain ⟨hfree, hordered, hrunning, hsince, hstarted, hcause, hstart, hduration, range⟩ := h
  cases state
  all_goals simp at hfree hordered hrunning hsince hstarted hcause hstart hduration range
  case free =>
    subst hfree
    simp at hsince
    subst_vars
    exact .free low counter since range
  case ordered =>
    obtain ⟨lot, rfl⟩ := Option.isSome_iff_exists.mp hordered
    obtain ⟨granted, rfl⟩ := Option.isSome_iff_exists.mp hsince
    obtain ⟨timer, rfl⟩ := Option.isSome_iff_exists.mp hstart
    subst_vars
    exact .ordered lot granted timer low counter since range
  case running =>
    obtain ⟨lot, rfl⟩ := Option.isSome_iff_exists.mp hrunning
    obtain ⟨granted, rfl⟩ := Option.isSome_iff_exists.mp hsince
    obtain ⟨began, rfl⟩ := Option.isSome_iff_exists.mp hstarted
    obtain ⟨timer, rfl⟩ := Option.isSome_iff_exists.mp hduration
    subst_vars
    exact .running lot granted began timer low counter since range
  case faulted =>
    obtain ⟨cause, rfl⟩ := Option.isSome_iff_exists.mp hcause
    subst hstart hduration
    cases current with
    | none =>
      simp at hsince hstarted
      subst_vars
      exact .empty cause low counter since range
    | some lot =>
      obtain ⟨granted, rfl⟩ := Option.isSome_iff_exists.mp hsince
      obtain ⟨began, rfl⟩ := Option.isSome_iff_exists.mp hstarted
      exact .holding lot granted began cause low counter since range

/-- What one act does to the line record: a reset, a second of the make clock, a MOULDS LOW or MOULDS READY, or a change of
its state, from a state that allows it. -/
inductive Act (k : LineRecord) : LineRecord → Prop
  | reset : Act k .reset
  | tick : Act k k.tick
  | moulds (low : Bool) : Act k { k with mouldsLow := low }
  | grant (lot clock : Nat) (start : Timer) (free : k.state = .free) :
      Act k { k with state := .ordered, current := some lot, orderedAt := some clock, startedAt := none,
                     start := some start, lotCounter := nextLot lot }
  | start (clock : Nat) (duration : Timer) (ordered : k.state = .ordered) :
      Act k { k with state := .running, startedAt := some clock, start := none, duration := some duration }
  | finish (clock : Nat) (busy : k.state = .ordered ∨ k.state = .running) : Act k (k.released.freed clock)
  | release (faulted : k.state = .faulted) : Act k k.released
  | fault (cause : LineFaultCause) (running : k.state = .running) :
      Act k { k with state := .faulted, faultCause := some cause, duration := none }
  | clear (clock : Nat) (faulted : k.state = .faulted) (empty : k.current = none) :
      Act k { k.freed clock with faultCause := none }

/-- A second of the make clock (R173). -/
theorem Sound.tick (h : k.Sound) : k.tick.Sound :=
  { h with
    start := by simpa [LineRecord.tick] using h.start
    duration := by simpa [LineRecord.tick] using h.duration }

/-- An act makes a sound record of a sound one: the shape before is the one its state names. -/
theorem Act.sound (act : k.Act k') (h : k.Sound) : k'.Sound := by
  cases act with
  | reset => exact .reset
  | tick => exact h.tick
  | moulds low => exact { h with }
  | grant lot clock start free =>
    cases h.shape with
    | free => exact (Shape.ordered lot clock start _ _ _ (nextLot_range lot)).sound
    | _ => cases free
  | start clock duration ordered =>
    cases h.shape with
    | ordered lot granted _ low counter since range =>
      exact (Shape.running lot granted clock duration low counter since range).sound
    | _ => cases ordered
  | finish clock busy =>
    cases h.shape with
    | ordered _ _ _ low counter _ range => exact (Shape.free low counter clock range).sound
    | running _ _ _ _ low counter _ range => exact (Shape.free low counter clock range).sound
    | _ => simp at busy
  | release faulted =>
    cases h.shape with
    | holding _ _ _ cause low counter since range => exact (Shape.empty cause low counter since range).sound
    | empty cause low counter since range => exact (Shape.empty cause low counter since range).sound
    | _ => cases faulted
  | fault cause running =>
    cases h.shape with
    | running lot granted began _ low counter since range =>
      exact (Shape.holding lot granted began cause low counter since range).sound
    | _ => cases running
  | clear clock faulted empty =>
    cases h.shape with
    | empty _ low counter _ range => exact (Shape.free low counter clock range).sound
    | holding => cases empty
    | _ => cases faulted

end LineRecord

/-! ### The ledger of the line: its record, the lot list and the early window -/

/-- What the curd line arbiter holds besides its dump lists. -/
structure LineLedger where
  line : LineRecord
  lots : List Lot
  window : List CompletedDump

/-- The ledger of a state. -/
def State.ledger (s : State) : LineLedger := ⟨s.line, s.lots, s.window⟩

/-- What one act does to the ledger. A lot joins the list in a grant alone, which R119 makes only while the list has room. -/
inductive LineLedger.Act (m : LineLedger) : LineLedger → Prop
  | reset : Act m ⟨.reset, [], []⟩
  | line {k : LineRecord} (act : m.line.Act k) : Act m { m with line := k }
  | grant {k : LineRecord} (lot : Lot) (act : m.line.Act k) (room : m.lots.length < Config.lotRoom) :
      Act m { m with line := k, lots := m.lots ++ [lot] }
  | lots (l : List Lot) (fewer : l.length ≤ m.lots.length) : Act m { m with lots := l }
  | window (d : CompletedDump) : Act m { m with window := joinWindow m.window d }

/-- The list and the window are within their room (R119, R135). -/
def LineLedger.Fits (m : LineLedger) : Prop := m.lots.length ≤ Config.lotRoom ∧ m.window.length ≤ Config.windowRoom

/-- A dump that joins a window within its room leaves it so: of nine the oldest leaves (R135). -/
theorem joinWindow_length_le {w : List CompletedDump} (h : w.length ≤ Config.windowRoom) (d : CompletedDump) :
    (joinWindow w d).length ≤ Config.windowRoom := by
  unfold joinWindow
  dsimp only
  split
  · simpa using h
  · omega

theorem LineLedger.Act.fits {m m' : LineLedger} (act : m.Act m') (h : m.Fits) : m'.Fits := by
  obtain ⟨lots, window⟩ := h
  cases act with
  | reset => exact ⟨Nat.zero_le _, Nat.zero_le _⟩
  | line => exact ⟨lots, window⟩
  | grant lot _ room => exact ⟨by simpa using room, window⟩
  | lots l fewer => exact ⟨fewer.trans lots, window⟩
  | window d => exact ⟨lots, joinWindow_length_le window d⟩

theorem LineLedger.Act.sound {m m' : LineLedger} (act : m.Act m') (h : m.line.Sound) : m'.line.Sound := by
  cases act with
  | reset => exact .reset
  | line act => exact act.sound h
  | grant _ act => exact act.sound h
  | lots => exact h
  | window => exact h

/-- The ledger of `t` is that of `s` after some acts, or none. -/
def LedgerRun (s t : State) : Prop := Relation.ReflTransGen LineLedger.Act s.ledger t.ledger

/-- What every act keeps, a run keeps. -/
theorem LedgerRun.keeps {P : LineLedger → Prop} {s t : State} (h : LedgerRun s t)
    (act : ∀ {m m' : LineLedger}, m.Act m' → P m → P m') (hs : P s.ledger) : P t.ledger :=
  h.head_induction_on (motive := fun m _ => P m → P t.ledger) id (fun step _ ih hm => ih (act step hm)) hs

/-- The lot list and the window stay within their room. -/
theorem LedgerRun.lotsHold {s t : State} (h : LedgerRun s t) (hs : LotsHold s) : LotsHold t :=
  h.keeps (P := LineLedger.Fits) (fun act => act.fits) hs

/-- The line record stays sound. -/
theorem LedgerRun.lineHolds {s t : State} (h : LedgerRun s t) (hs : LineHolds s) : LineHolds t :=
  h.keeps (P := fun m => m.line.Sound) (fun act => act.sound) hs

end Sys2Proof.Machine
end

section
/-! PROOFS. What each request and event does to the ledger of the line is a run of its acts, and so every step keeps the lot
list and the early window within their room (O8) and the line record sound (O11). -/

namespace Sys2Proof.Machine

variable {r s t u : State} {v : Vat}

theorem LedgerRun.refl (s : State) : LedgerRun s s := Relation.ReflTransGen.refl

/-- The ledger stays. -/
theorem LedgerRun.congr (h : LedgerRun r s) (e : t.ledger = s.ledger) : LedgerRun r t := by
  rwa [LedgerRun, e]

/-- One act more. -/
theorem LedgerRun.act (h : LedgerRun r s) (act : s.ledger.Act t.ledger) : LedgerRun r t := h.tail act

/-- One act of the line record. -/
theorem LedgerRun.modLine (h : LedgerRun r s) {f : LineRecord → LineRecord} (act : s.line.Act (f s.line)) :
    LedgerRun r (s.modLine f) := h.act (.line act)

theorem LedgerRun.removeLot (h : LedgerRun r s) (n : Nat) : LedgerRun r (s.removeLot n) :=
  h.act (.lots _ (withoutLot_sublist _ _).length_le)

theorem LedgerRun.modLot (h : LedgerRun r s) (n : Nat) (f : Lot → Lot) : LedgerRun r (s.modLot n f) :=
  h.act (.lots _ (List.length_map _).le)

/-- A reset brings an empty ledger (R116, R153). -/
theorem LedgerRun.reset (s : State) (e : t.ledger = ⟨.reset, [], []⟩) : LedgerRun s t :=
  (LedgerRun.refl s).act (e ▸ .reset)

/-! ### The other blocks -/

theorem LedgerRun.banks (h : LedgerRun r s) (hw : BanksWork s t) : LedgerRun r t := h.congr (by rw [hw.frame]; rfl)

theorem LedgerRun.bank {b : Bank} (h : LedgerRun r s) (hw : BankWork b s t) : LedgerRun r t := h.banks hw.banks

theorem LedgerRun.cut (h : LedgerRun r s) (hw : CutWork s t) : LedgerRun r t := h.congr (by rw [hw.frame]; rfl)

theorem LedgerRun.cutLook (h : LedgerRun r s) : LedgerRun r s.cutLook := h.cut (.cutLook s)

/-! ### The curd line arbiter -/

/-- A look grants the FREE line to a lot that the list has room for, or does nothing (R119, R120). -/
theorem LedgerRun.lineLook (h : LedgerRun r s) : LedgerRun r s.lineLook := by
  rcases s.lineLook_cases with e | ⟨⟨free, -, -, -, room⟩, x, -, e⟩
  · rwa [e]
  · rw [e]
    have ledger : (s.applyLineGrant x).ledger =
        { s.ledger with line := (s.applyLineGrant x).line, lots := s.lots ++ [s.lotFor x] } := by
      obtain ⟨fromLate, entry, rest⟩ := x
      cases fromLate <;> rfl
    refine h.act ?_
    rw [ledger]
    refine .grant _ ?_ room
    rw [State.applyLineGrant_line]
    exact .grant _ _ _ free

theorem LedgerRun.joinDump (h : LedgerRun r s) (v : Vat) (kind : EntryKind) (early : Bool) :
    LedgerRun r (s.joinDump v kind early) := by
  unfold State.joinDump
  split <;> exact h

theorem LedgerRun.returnDump (h : LedgerRun r s) (v : Vat) (kind : EntryKind) (early : Bool) :
    LedgerRun r (s.returnDump v kind early) := by
  unfold State.returnDump
  split <;> exact h

theorem LedgerRun.queueDump (h : LedgerRun r s) (v : Vat) (kind : EntryKind) (early : Bool) :
    LedgerRun r (s.queueDump v kind early) := LedgerRun.joinDump (s := s.modVat v _) h v kind early

theorem LedgerRun.moveLate (h : LedgerRun r s) (hm : s.moveLate v = some t) : LedgerRun r t := by
  unfold State.moveLate at hm
  split at hm
  · cases hm
    exact h
  · cases hm

/-- The order of an ORDERED line is withdrawn: its lot leaves the list and the line is FREE (R125). -/
theorem LedgerRun.withdrawDump (h : LedgerRun r s) (x : Lot) (cause : DumpWithdrawCause)
    (ordered : s.line.state = .ordered) : LedgerRun r (s.withdrawDump x cause) := by
  have freed : LedgerRun r ((s.removeLot x.number).modLine fun k => k.released.freed s.clock) :=
    (h.removeLot x.number).modLine (.finish _ (.inl ordered))
  exact LedgerRun.returnDump (s := ((s.removeLot x.number).modLine _).modVat x.vat _) freed x.vat _ _

/-- The dump of an ORDERED line starts (R124). -/
theorem LedgerRun.startDump (h : LedgerRun r s) (x : Lot) (ordered : s.line.state = .ordered) :
    LedgerRun r (s.startDump x) := by
  have started : LedgerRun r (s.modLine fun k =>
      { k with state := .running, startedAt := some s.clock, start := none,
               duration := some (.begin s.settings.dumpDurationLimit) }) := h.modLine (.start _ _ ordered)
  exact started.modLot x.number _

theorem LedgerRun.finishLot (h : LedgerRun r s) (x : Lot) (received : Nat) : LedgerRun r (s.finishLot x received) := by
  unfold State.finishLot State.raiseShort
  split_ifs
  · exact h.removeLot _
  · exact h.modLot _ _
  · exact h.modLot _ _

/-- The end of a dump frees a RUNNING line and leaves a FAULTED one without its lot; the dump joins the window (R128,
R135). -/
theorem LedgerRun.endDump (h : LedgerRun r s) (x : Lot) (received : Nat)
    (line : s.line.state = .running ∨ s.line.state = .faulted) : LedgerRun r (s.endDump x received) := by
  have released : LedgerRun r
      (s.modLine fun k => if k.state = .running then k.released.freed s.clock else k.released) := by
    refine h.modLine ?_
    split
    · rename_i running
      exact .finish _ (.inr running)
    · rename_i stopped
      exact .release (line.resolve_left stopped)
  have joined := (released.finishLot x received).act (.window ⟨x.number, x.early⟩)
    (t := { State.finishLot _ x received with window := joinWindow _ _ })
  exact (joined.bank (.queueWash _ x.vat)).lineLook

/-- The lot of a FAULTED line is abandoned (R130). -/
theorem LedgerRun.abandon (h : LedgerRun r s) (x : Lot) (faulted : s.line.state = .faulted) :
    LedgerRun r (s.abandon x) :=
  (((h.removeLot x.number).modLine (.release faulted)).bank (.queueWash _ x.vat)).lineLook

theorem LedgerRun.applyDumpStartExpiry (h : LedgerRun r s) (ordered : s.line.state = .ordered) :
    LedgerRun r s.applyDumpStartExpiry := by
  unfold State.applyDumpStartExpiry
  split
  · exact (h.withdrawDump _ _ ordered).lineLook
  · exact h

/-- The duration timer of a RUNNING line expires (R127). -/
theorem LedgerRun.applyDurationExpiry (h : LedgerRun r s) (running : s.line.state = .running) :
    LedgerRun r s.applyDurationExpiry :=
  h.modLine (f := fun k => { k with state := .faulted, faultCause := some .duration, duration := none }) (.fault _ running)

/-! ### The events of the vat table and of the carriages -/

theorem LedgerRun.applyCutOpen (h : LedgerRun r s) (v : Vat) : LedgerRun r (s.applyCutOpen v) := by
  unfold State.applyCutOpen
  split
  · exact h
  · exact (h.cut (.enterCutWindow s v)).cutLook

theorem LedgerRun.applyUrgency (h : LedgerRun r s) (v : Vat) : LedgerRun r (s.applyUrgency v) := by
  unfold State.applyUrgency
  split
  · rename_i hm
    exact (h.cut (.moveUrgent hm)).cutLook
  · exact h

theorem LedgerRun.applyCutClose (h : LedgerRun r s) (v : Vat) : LedgerRun r (s.applyCutClose v) := by
  unfold State.applyCutClose
  split
  · exact ((h.cut (.withdrawCut s _ v _ _)).cut (.raiseOverset _ v)).cutLook
  · exact h

theorem LedgerRun.applyHealMin (h : LedgerRun r s) (v : Vat) : LedgerRun r (s.applyHealMin v) := by
  unfold State.applyHealMin
  split_ifs
  · exact h
  · exact LedgerRun.lineLook (s := s.queueRoutine v) h
  · exact (h.queueDump v _ _).lineLook

theorem LedgerRun.healMinAtOnce (h : LedgerRun r s) (v : Vat) : LedgerRun r (s.healMinAtOnce v) := by
  unfold State.healMinAtOnce
  split
  · exact h.applyHealMin v
  · exact h

theorem LedgerRun.healMinAfterCut (h : LedgerRun r s) (v : Option Vat) : LedgerRun r (s.healMinAfterCut v) := by
  cases v with
  | none => exact h
  | some v => exact h.healMinAtOnce v

theorem LedgerRun.applyHealMax (h : LedgerRun r s) (v : Vat) : LedgerRun r (s.applyHealMax v) := by
  unfold State.applyHealMax
  split
  · exact h
  · split
    · rename_i hm
      exact (h.moveLate hm).lineLook
    · exact h

theorem LedgerRun.advance (h : LedgerRun r s) (v : Vat) : LedgerRun r (s.advance v) := by
  unfold State.advance
  split
  · exact h
  · exact (h.cut (.enterCutWindow s v)).cutLook
  · exact (h.queueDump v _ _).lineLook

theorem LedgerRun.applyCutStartExpiry (h : LedgerRun r s) (c : Carriage) : LedgerRun r (s.applyCutStartExpiry c) := by
  unfold State.applyCutStartExpiry
  split
  · exact h
  · rename_i v _
    have withdrawn := (h.cut (.modCarriage s c fun k => { k with missed := k.missed + 1 })).cut
      (.withdrawCut _ c v .startLimit (decide (s.settings.strikes ≤ (s.carriage c).missed + 1)))
    refine LedgerRun.cutLook ?_
    split
    · exact withdrawn.cut (.raiseCarriageFault _ c _)
    · exact withdrawn

theorem LedgerRun.modVatOf (h : LedgerRun r s) (v : Option Vat) (f : VatRecord → VatRecord) :
    LedgerRun r (s.modVatOf v f) := by
  cases v <;> exact h

theorem LedgerRun.endCut (h : LedgerRun r s) (c : Carriage) : LedgerRun r (s.endCut c) :=
  LedgerRun.modVatOf (s := s.modCarriage c _) h _ _

/-! ### The requests of the Console link and of the Fill link -/

theorem LedgerRun.discard (h : LedgerRun r s) (v : Vat) : LedgerRun r (s.discard v) := by
  have released : LedgerRun r ((s.leaveCut v).releaseCarriageOf v) := by
    unfold State.releaseCarriageOf
    split <;> exact h
  exact (LedgerRun.queueDump (s := ((s.leaveCut v).releaseCarriageOf v).modVat v _) released v _ _).lineLook

theorem LedgerRun.declareVat (h : LedgerRun r s) (d : Declaration) (v : Vat) : LedgerRun r (s.declareVat d v) := by
  unfold State.declareVat
  dsimp only
  split
  · exact LedgerRun.healMinAtOnce (s := (s.modVat v _).modVat v _) h v
  · exact (LedgerRun.joinDump (s := s.modVat v _) h v _ _).lineLook
  · exact h

theorem LedgerRun.cancelCurrent (h : LedgerRun r s) (b : Bank) (c : Current) : LedgerRun r (s.cancelCurrent b c) := by
  unfold State.cancelCurrent
  split
  · exact h
  · exact h.bank (((BankWork.modBank b s _).trans (.endFill b _ _)).trans (.afterTransfer b _))

theorem LedgerRun.remap (h : LedgerRun r s) (slot : Slot) (y : Option Vat) : LedgerRun r (s.remap slot y) := by
  have write : ∀ {m : State} (y : Option Vat) (n : Option Slot), LedgerRun r m → LedgerRun r (m.writeSlot y n) :=
    fun y _ hm => by cases y <;> exact hm
  exact write y _ (write _ _ h)

/-! ### SET and the links -/

theorem LedgerRun.marginSet (h : LedgerRun r s) : LedgerRun r s.marginSet := by
  unfold State.marginSet
  split
  · exact (h.cut (.moveAllUrgent s)).cutLook
  · exact h

theorem LedgerRun.becomeAbsent (h : LedgerRun r s) (l : Link) (cause : AbsentCause) :
    LedgerRun r (s.becomeAbsent l cause) := by
  have marked : LedgerRun r (s.markedAbsent l cause) := h
  unfold State.becomeAbsent
  split
  · cases l with
    | fill => exact marked.banks (.parkLooks _ _)
    | cut => exact (marked.cut (.withdrawForAbsence _)).cutLook
    | press => exact marked
    | console => exact marked
  · exact h

theorem LedgerRun.actOnSet (h : LedgerRun r s) (i : Item) : LedgerRun r (s.actOnSet i) := by
  cases i
  case urgencyMargin => exact h.marginSet
  case reachLow => exact h.cutLook
  case reachHigh => exact h.cutLook
  case pathOpenLimit => exact h.banks (.pathLimitSet s)
  case parkDelay => exact h.banks (.parkDelaySet s)
  case presenceTimeout =>
    exact State.forEachFreely_keeps (LedgerRun r) s _ _ h (fun _ => h) fun l _ _ ht => ht.becomeAbsent l _
  all_goals exact h

theorem LedgerRun.setItem (h : LedgerRun r s) (i : Item) (n : Nat) : LedgerRun r (s.setItem i n) := by
  unfold State.setItem
  split
  · exact h
  · exact LedgerRun.actOnSet (s := { s with settings := s.settings.put i n }) h i

theorem LedgerRun.heard (h : LedgerRun r s) (l : Link) : LedgerRun r (s.heard l) := by
  have present : LedgerRun r ((s.modLink l fun u => { u with presence := some 0 }).raise .console (.stationPresent l)) := h
  unfold State.heard State.becomePresent
  split_ifs
  · exact h
  · exact h
  · cases l with
    | fill => exact present.banks (.bankLooks _ _ _)
    | cut => exact present.cutLook
    | press => exact present.lineLook
    | console => exact present

theorem LedgerRun.closeFrame (h : LedgerRun r s) (l : Link) (f : OpenFrame) : LedgerRun r (s.closeFrame l f) := by
  unfold State.closeFrame
  split
  · exact h
  · exact LedgerRun.heard (s := s.modLink l _) h l

theorem LedgerRun.receive (h : LedgerRun r s) (l : Link) (x : Character) : LedgerRun r (s.receive l x) := by
  unfold State.receive
  split
  · exact h
  · split <;> exact h
  · exact h
  · split_ifs
    · exact h.closeFrame l _
    · exact h
    · exact h

theorem LedgerRun.lookAtRoom (h : LedgerRun r s) (l : Link) : LedgerRun r (s.lookAtRoom l) := by
  cases l with
  | fill => exact h
  | cut => exact h.cutLook
  | press => exact h.lineLook
  | console => exact h

theorem LedgerRun.breakLine (s : State) (l : Link) : LedgerRun s (s.breakLine l) := by
  unfold State.breakLine
  dsimp only
  split
  · exact .reset s rfl
  · exact LedgerRun.becomeAbsent (s := s.silenced l) (.refl s) l _

/-! ### Every step -/

/-- What an accepted request does to the ledger. -/
theorem LedgerRun.effect (h : LedgerRun r s) (he : Effect s t) : LedgerRun r t := by
  cases he with
  | orderFill o v => exact LedgerRun.bank (s := s.modVat v _) h (.joinTransfer _ _ _)
  | cancelQueued v => exact LedgerRun.bank (s := (s.dropTransfer _ v).clearVat v) h (.parkLook _ _)
  | cancelListed v => exact LedgerRun.bank (s := s.dropTransfer _ v) h ((BankWork.endFill _ _ v).trans (.parkLook _ _))
  | cancelCurrent c => exact h.cancelCurrent _ c
  | startCut c => exact LedgerRun.modVatOf (s := s.modCarriage c _) h _ _
  | endCut c => exact (h.endCut c).cutLook.healMinAfterCut _
  | endCutLate c => exact (h.endCut c).healMinAfterCut _
  | refuseCut c => exact (h.cut (.withdrawOrder s c _)).cutLook
  | blockOrdered c => exact (LedgerRun.cut (s := s.modCarriage c _) h (.withdrawOrder _ c _)).cutLook
  | unblock c => exact LedgerRun.cutLook (s := s.modCarriage c _) h
  | resume => exact LedgerRun.cutLook (s := { s with routinePause := false }) h
  | startDump n x found lot line => exact h.startDump x line
  | endDump n x received found lot line => exact h.endDump x received line
  | refuseDump n x found lot line => exact (h.withdrawDump x _ line).lineLook
  | closeLot n x => exact (h.removeLot x.number).lineLook
  | mouldsLow => exact h.modLine (.moulds true)
  | mouldsReady => exact (h.modLine (.moulds false)).lineLook
  | hold v => exact LedgerRun.banks (s := s.modVat v _) h (.parkLooks _ _)
  | release v => exact (LedgerRun.banks (s := s.modVat v _) h (.bankLooks _ _ _)).cutLook.lineLook
  | stepModeOff v => exact LedgerRun.advance (s := s.modVat v _) h v
  | step v => exact h.advance v
  | dumpEarly v => exact (LedgerRun.queueDump (s := s.modVat v _) h v _ _).lineLook
  | releaseOverset v => exact (LedgerRun.cut (s := s.modVat v _) h (.enterCutWindow _ v)).cutLook
  | discard v => exact h.discard v
  | abandon n x found line => exact h.abandon x line
  | freezeBanks on =>
    unfold State.freezeBanks
    dsimp only
    split
    · exact LedgerRun.banks (s := { s with frozen := { s.frozen with banks := on } }) h (.bankLooks _ _ _)
    · exact h
  | freezeCarriages on =>
    unfold State.freezeCarriages
    dsimp only
    split
    · exact LedgerRun.cutLook (s := { s with frozen := { s.frozen with carriages := on } }) h
    · exact h
  | freezeLine on =>
    unfold State.freezeLine
    dsimp only
    split
    · exact LedgerRun.lineLook (s := { s with frozen := { s.frozen with line := on } }) h
    · exact h
  | clearCarriage c => exact LedgerRun.cutLook (s := s.modCarriage c _) h
  | clearLine faulted empty => exact (h.modLine (.clear _ faulted empty)).lineLook
  | setItem i n => exact h.setItem i n
  | mapSlot slot v => exact h.remap slot _
  | unmapSlot slot => exact h.remap slot _
  | declare d v => exact h.declareVat d v
  | _ => exact h

/-- An event that comes about only when it is due. -/
theorem LedgerRun.of_due {d : Bool} (hu : d = true → LedgerRun s u)
    (ht : Host.Outcome.next (φ := Fault) (ρ := Refusal) (if (!s.inReset && d) = true then u else s) = .next t) :
    LedgerRun s t :=
  keeps_of_next_ite (fun hd => hu (Bool.and_eq_true_iff.mp hd).2) (fun _ => .refl s) ht

/-- An event of a bank that comes about only when it is due. -/
theorem LedgerRun.of_due_bank {d : Bool} {b : Bank} (hu : BankWork b s u)
    (ht : Host.Outcome.next (φ := Fault) (ρ := Refusal) (if (!s.inReset && d) = true then u else s) = .next t) :
    LedgerRun s t := .of_due (fun _ => (LedgerRun.refl s).bank hu) ht

/-- An event that comes about unless something forbids it. -/
theorem LedgerRun.of_not {x : Prop} [Decidable x] (hu : LedgerRun s u)
    (ht : Host.Outcome.next (φ := Fault) (ρ := Refusal) (if x then s else u) = .next t) : LedgerRun s t :=
  keeps_of_next_ite (fun _ => .refl s) (fun _ => hu) ht

theorem State.dumpStartDue_ordered (h : s.dumpStartDue = true) : s.line.state = .ordered :=
  of_decide_eq_true (Bool.and_eq_true_iff.mp h).1

theorem State.dumpDurationDue_running (h : s.dumpDurationDue = true) : s.line.state = .running :=
  of_decide_eq_true (Bool.and_eq_true_iff.mp h).1

/-- What a command does to the ledger. -/
theorem LedgerRun.exec {i : Instr} (h : exec i s = .next t) : LedgerRun s t := by
  have stay := LedgerRun.refl s
  induction i using Instr.cases_request with
  | request l edit r =>
    rw [exec_ofRequest] at h
    cases h
    rcases State.takeRequest_effect r l edit s with e | ⟨f, x, d, e⟩
    · rwa [e]
    · exact LedgerRun.effect (s := s.answered l edit f x d) stay e
  | powerOnReset =>
    cases h
    exact .reset s rfl
  | resetnAsserted => exact .of_not (u := s.holdReset) stay h
  | resetRelease =>
    cases h
    split
    · exact .reset s rfl
    · exact stay
  | frameClosed l =>
    cases h
    split
    · split
      · exact stay
      · exact stay.closeFrame l _
    · exact stay
  | frameAbandoned l =>
    cases h
    split
    · split <;> exact stay
    · exact stay
  | lineBreak l => exact .of_not (.breakLine s l) h
  | presenceTimeout l => exact .of_due (fun _ => stay.becomeAbsent l _) h
  | frameSendStart l =>
    cases h
    split
    · split
      · exact stay
      · rename_i u _ _
        exact LedgerRun.lookAtRoom (s := s.setLink l u) stay l
    · exact stay
  | frameSent l =>
    cases h
    split_ifs
    · exact stay
    · exact .reset s rfl
    · exact stay
  | cutOpenReached v => exact .of_due (fun _ => stay.applyCutOpen v) h
  | urgencyMoment v => exact .of_due (fun _ => stay.applyUrgency v) h
  | cutCloseReached v => exact .of_due (fun _ => stay.applyCutClose v) h
  | healMinReached v => exact .of_due (fun _ => stay.applyHealMin v) h
  | healMaxReached v => exact .of_due (fun _ => stay.applyHealMax v) h
  | provedRise b =>
    cases h
    split_ifs
    · exact stay
    · exact stay
    · exact LedgerRun.bank (s := s.seeProved b true) stay (.applyProvedRise b _)
  | provedFall b =>
    cases h
    split_ifs
    · exact stay
    · exact stay
    · exact LedgerRun.bank (s := s.seeProved b false) stay (.applyProvedFall b _)
  | flowPulse b => exact .of_not (stay.bank (.applyFlow b s)) h
  | travelTimerExpiry b => exact .of_due_bank (.faultBank b s _) h
  | drainTimerExpiry b => exact .of_due_bank (.endDrain b s) h
  | pathOpenLimit b => exact .of_due_bank (.expirePath b s) h
  | noFlowTimerExpiry b => exact .of_due_bank (.applyNoFlow b s) h
  | flushTimerExpiry b => exact .of_due_bank (.applyFlushExpiry b s) h
  | rinseCounterMatch b => exact .of_due_bank (.applyRinseMatch b s) h
  | rinseTimerExpiry b => exact .of_due_bank (.enterReady b s) h
  | parkTimerExpiry b => exact .of_due_bank (.parkBank b s) h
  | parkDrainEnd b => exact .of_due_bank (.modBank b s _) h
  | cutStartTimerExpiry c => exact .of_due (fun _ => stay.applyCutStartExpiry c) h
  | sliceTimerExpiry c => exact .of_due (u := s.applySliceExpiry c) (fun _ => stay) h
  | dumpStartTimerExpiry => exact .of_due (fun hd => stay.applyDumpStartExpiry (State.dumpStartDue_ordered hd)) h
  | dumpDurationExpiry => exact .of_due (fun hd => stay.applyDurationExpiry (State.dumpDurationDue_running hd)) h
  | characterReceived l x => exact .of_not (stay.receive l x) h
  | lineReturnedToMark l => exact .of_not (u := s.modLink l _) stay h

/-- What one step does to the ledger: some acts, or none. -/
theorem LedgerRun.step (h : step s = .next t) : LedgerRun s t := by
  rcases step_cases h with ⟨i, p, d, h⟩ | ⟨d, rfl⟩ | rfl
  · exact LedgerRun.exec (s := { s with pending := p, drawn := d }) h
  · exact (LedgerRun.refl s).act (.line .tick)
  · exact .refl _

/-- Settles O8: a lot joins the list only in a grant, which a look makes while the list has room for it, and a dump joins the
window in the place of its oldest. -/
theorem everyStepKeepsLotRoom : Obligations.EveryStepKeepsLotRoom :=
  fun _ _ hs hstep => (LedgerRun.step hstep).lotsHold hs

/-- Settles O11: a sound record has one of five shapes, and each act takes the shape that its state names to a shape. -/
theorem everyStepKeepsLine : Obligations.EveryStepKeepsLine :=
  fun _ _ hs hstep => (LedgerRun.step hstep).lineHolds hs

end Sys2Proof.Machine
end

section
/-! PROOFS. What each request and event leaves of the links' buffers and queues: a request gets one reply (O23), what is
brought about beside it joins as notices, and a queue or buffer grows only into its room (O7). -/

namespace Sys2Proof.Machine

variable {s t u : State} {l : Link} {f : Frame}

/-! ### Links that notices alone have joined -/

/-- `u'` has the buffer of `u`, and its queue with notices behind it that found room. -/
structure LinkUnit.Joined (u u' : LinkUnit) : Prop where
  buffer : u'.buffer = u.buffer
  queue : ∃ ns : List Notice, u'.queue = u.queue ++ ns.map Message.notice ∧
    (ns = [] ∨ u.queue.length + ns.length ≤ Config.transmitRoom)

theorem LinkUnit.Joined.of_eq {u u' : LinkUnit} (hb : u'.buffer = u.buffer) (hq : u'.queue = u.queue) : u.Joined u' :=
  ⟨hb, [], by simp [hq], .inl rfl⟩

theorem LinkUnit.Joined.trans {u v w : LinkUnit} (h : u.Joined v) (h' : v.Joined w) : u.Joined w := by
  obtain ⟨hb, ns, hq, hr⟩ := h
  obtain ⟨hb', ms, hq', hr'⟩ := h'
  refine ⟨hb'.trans hb, ns ++ ms, by simp [hq', hq], ?_⟩
  rcases hr' with rfl | hr'
  · simpa using hr
  · rw [hq, List.length_append, List.length_map] at hr'
    rw [List.length_append]
    omega

theorem LinkUnit.Gains.joined {u u' : LinkUnit} (h : u.Gains u') : u.Joined u' := by
  obtain ⟨ns, lost, rfl, hr⟩ := h
  exact ⟨rfl, ns, rfl, hr⟩

theorem LinkUnit.Joined.room {u u' : LinkUnit} (h : u.Joined u') (hu : u.queue.length ≤ Config.transmitRoom) :
    u'.queue.length ≤ Config.transmitRoom := by
  obtain ⟨-, ns, hq, hr⟩ := h
  rw [hq, List.length_append, List.length_map]
  rcases hr with rfl | hr
  · exact hu
  · exact hr

/-- On every link of `t` nothing but notices has joined what waits on that link of `s`. -/
def NoticesJoin (s t : State) : Prop := ∀ l, (s.link l).Joined (t.link l)

theorem NoticesJoin.of_links (h : t.links = s.links) : NoticesJoin s t := fun l =>
  have e : t.link l = s.link l := congrArg (Links.get · l) h
  .of_eq (congrArg _ e) (congrArg _ e)

theorem NoticesJoin.refl (s : State) : NoticesJoin s s := .of_links rfl

theorem NoticesJoin.trans (h : NoticesJoin s t) (h' : NoticesJoin t u) : NoticesJoin s u := fun l => (h l).trans (h' l)

theorem LinksGain.joins (h : LinksGain s t) : NoticesJoin s t := fun l => (h l).joined

/-- Work after a change that touches no link. -/
theorem Work.joins (hw : Work t u) (h : t.links = s.links := by rfl) : NoticesJoin s u :=
  (NoticesJoin.of_links h).trans hw.links.joins

theorem NoticesJoin.modLink (s : State) (l : Link) {g : LinkUnit → LinkUnit}
    (hb : ∀ k : LinkUnit, (g k).buffer = k.buffer := by exact fun _ => rfl)
    (hq : ∀ k : LinkUnit, (g k).queue = k.queue := by exact fun _ => rfl) : NoticesJoin s (s.modLink l g) := by
  intro l'
  by_cases h : l' = l
  · subst h
    rw [State.modLink_link_same]
    exact .of_eq (hb _) (hq _)
  · rw [State.modLink_link_ne _ _ h]
    exact .of_eq rfl rfl

/-! ### Presence -/

theorem NoticesJoin.becomeAbsent (s : State) (l : Link) (cause : AbsentCause) : NoticesJoin s (s.becomeAbsent l cause) := by
  cases h : s.present l with
  | true =>
    exact ((NoticesJoin.modLink s l).trans (LinksGain.raise _ _ _).joins).trans (LinksGain.becomeAbsent h cause).joins
  | false =>
    rw [State.becomeAbsent_of_absent h]
    exact .refl s

theorem NoticesJoin.becomePresent (s : State) (l : Link) : NoticesJoin s (s.becomePresent l) := by
  have raised : NoticesJoin s
      ((s.modLink l fun u => { u with presence := some 0 }).raise .console (.stationPresent l)) :=
    (NoticesJoin.modLink s l).trans (LinksGain.raise _ _ _).joins
  cases l with
  | fill => exact raised.trans (BanksWork.bankLooks _ _ _).links.joins
  | cut => exact raised.trans (CutWork.cutLook _).links.joins
  | press => exact raised.trans (LineWork.lineLook _).links.joins
  | console => exact raised

theorem NoticesJoin.heard (s : State) (l : Link) : NoticesJoin s (s.heard l) := by
  unfold State.heard
  split_ifs
  · exact .refl s
  · exact .modLink s l
  · exact .becomePresent s l

/-! ### Requests -/

theorem State.finishLot_joins (s : State) (x : Lot) (received : Nat) : NoticesJoin s (s.finishLot x received) := by
  unfold State.finishLot State.raiseShort
  split_ifs
  · exact .of_links rfl
  · exact (LinksGain.raise _ _ _).joins
  · exact .of_links rfl

theorem State.endDump_joins (s : State) (x : Lot) (received : Nat) : NoticesJoin s (s.endDump x received) := by
  have freed : NoticesJoin s
      (s.modLine fun k => if k.state = .running then k.released.freed s.clock else k.released) := .of_links rfl
  exact (freed.trans (State.finishLot_joins _ x received)).trans (Work.queueWash_lineLook _ _).joins

theorem State.freezeBanks_joins (s : State) (on : Bool) : NoticesJoin s (s.freezeBanks on) := by
  unfold State.freezeBanks
  dsimp only
  split
  · exact (BanksWork.bankLooks _ _ _).work.joins
  · exact .of_links rfl

theorem State.freezeCarriages_joins (s : State) (on : Bool) : NoticesJoin s (s.freezeCarriages on) := by
  unfold State.freezeCarriages
  dsimp only
  split
  · exact (CutWork.cutLook _).work.joins
  · exact .of_links rfl

theorem State.freezeLine_joins (s : State) (on : Bool) : NoticesJoin s (s.freezeLine on) := by
  unfold State.freezeLine
  dsimp only
  split
  · exact (LineWork.lineLook _).work.joins
  · exact .of_links rfl

theorem State.presenceSet_joins (s : State) : NoticesJoin s s.presenceSet :=
  State.forEachFreely_keeps (NoticesJoin s) s _ _ (.refl s) (fun _ => .of_links rfl)
    fun l _ t ht => ht.trans (.becomeAbsent t l _)

theorem State.actOnSet_joins (s : State) (i : Item) : NoticesJoin s (s.actOnSet i) := by
  unfold State.actOnSet
  split
  · exact (Work.marginSet s).joins
  · exact (CutWork.cutLook s).work.joins
  · exact (CutWork.cutLook s).work.joins
  · exact (BanksWork.pathLimitSet s).work.joins
  · exact .of_links rfl
  · exact (BanksWork.parkDelaySet s).work.joins
  · exact s.presenceSet_joins
  · exact .refl s

theorem State.setItem_joins (s : State) (i : Item) (v : Nat) : NoticesJoin s (s.setItem i v) := by
  unfold State.setItem
  split
  · exact .refl s
  · exact (NoticesJoin.of_links rfl).trans (State.actOnSet_joins { s with settings := s.settings.put i v } i)

theorem State.writeSlot_links (s : State) (y : Option Vat) (n : Option Slot) : (s.writeSlot y n).links = s.links := by
  cases y <;> rfl

theorem State.remap_links (s : State) (slot : Slot) (y : Option Vat) : (s.remap slot y).links = s.links := by
  simp only [State.remap, State.writeSlot_links]

/-- Beyond its reply, an accepted request queues notices alone. -/
theorem NoticesJoin.of_effect (h : Effect s t) : NoticesJoin s t := by
  cases h with
  | marksOff l => exact .modLink s l
  | orderFill o v => exact (BankWork.joinTransfer _ _ _).work.joins
  | cancelQueued v => exact (Work.cancelQueued s _ v).joins
  | cancelListed v => exact (Work.cancelListed s _ v).joins
  | cancelCurrent c => exact (Work.cancelCurrent s _ c).joins
  | startCut c => exact (Work.startCut s c).joins
  | endCut c => exact (((Work.endCut s c).trans (CutWork.cutLook _).work).trans (.healMinAfterCut _ _)).joins
  | endCutLate c => exact ((Work.endCut s c).trans (.healMinAfterCut _ _)).joins
  | refuseCut c => exact ((CutWork.withdrawOrder s c _).trans (.cutLook _)).work.joins
  | blockOrdered c => exact ((CutWork.withdrawOrder _ c _).trans (.cutLook _)).work.joins
  | unblock | resume | clearCarriage => exact (CutWork.cutLook _).work.joins
  | startDump n x => exact (Work.startDump s x).joins
  | endDump n x received => exact s.endDump_joins x received
  | refuseDump n x => exact ((LineWork.withdrawDump s x _).trans (.lineLook _)).work.joins
  | closeLot | mouldsReady | clearLine => exact (LineWork.lineLook _).work.joins
  | hold v => exact (BanksWork.parkLooks _ _).work.joins
  | release v => exact (Work.looks _ _ _).joins
  | stepModeOff v => exact (Work.advance _ v).joins
  | step v => exact (Work.advance s v).joins
  | dumpEarly v => exact ((LineWork.queueDump _ v _ _).trans (.lineLook _)).work.joins
  | releaseOverset v => exact ((CutWork.enterCutWindow _ v).trans (.cutLook _)).work.joins
  | discard v => exact (Work.discard s v).joins
  | abandon n x => exact (Work.abandon s x).joins
  | freezeBanks on => exact s.freezeBanks_joins on
  | freezeCarriages on => exact s.freezeCarriages_joins on
  | freezeLine on => exact s.freezeLine_joins on
  | setItem i v => exact s.setItem_joins i v
  | mapSlot slot v => exact .of_links (s.remap_links slot _)
  | unmapSlot slot => exact .of_links (s.remap_links slot _)
  | declare d v => exact (Work.declareVat s d v).joins
  | _ => exact .of_links rfl

/-- A request that can be taken is answered, and then has the effect of one accepted request, or none. -/
theorem State.takeRequest_of_takable {r : Request} (edit : Bool) (hf : s.takable l = some f) (hr : f.request = r) :
    ∃ x d, Effect (s.answered l edit f x d) (State.takeRequest r l edit (ownerOf r) s) := by
  cases hc : firstChecks r ⟨l, f⟩ edit with
  | some x =>
    rw [State.takeRequest_of_refused _ hf hr hc]
    exact ⟨x, [], .nothing⟩
  | none =>
    rw [State.takeRequest_of_asks _ ⟨hf, hr, hc⟩]
    exact Replied.ownerOf ⟨l, f⟩ (s.taken l edit) r

/-- Settles O23: the reply joins before the effect, and the effect of every row queues notices alone. -/
theorem oneReplyForEachRequest : Obligations.OneReplyForEachRequest := by
  intro s l edit r f hf hr
  obtain ⟨x, d, he⟩ := State.takeRequest_of_takable edit hf hr
  obtain ⟨hb, ns, hq, -⟩ := NoticesJoin.of_effect he l
  rw [State.answered_link_self] at hb hq
  exact ⟨_, x, d, exec_ofRequest r l edit s, ⟨ns, by rw [hq, List.append_assoc]; rfl⟩, hb⟩

/-! ### Queues and buffers within their room -/

theorem LinksHold.joins (h : LinksHold s) (hj : NoticesJoin s t) : LinksHold t := fun l => by
  obtain ⟨hq, hb⟩ := h l
  exact ⟨(hj l).room hq, (hj l).buffer ▸ hb⟩

theorem LinksHold.modLink (h : LinksHold s) (l : Link) {g : LinkUnit → LinkUnit}
    (hg : (g (s.link l)).queue.length ≤ Config.transmitRoom ∧ (g (s.link l)).buffer.length ≤ Config.receiveRoom) :
    LinksHold (s.modLink l g) := by
  intro l'
  by_cases e : l' = l
  · subst e
    rwa [State.modLink_link_same]
  · rw [State.modLink_link_ne _ _ e]
    exact h l'

theorem LinksHold.of_reset (h : ∀ l, ∃ b, t.link l = .reset b) : LinksHold t := fun l => by
  obtain ⟨b, e⟩ := h l
  rw [e]
  exact ⟨Nat.zero_le _, Nat.zero_le _⟩

theorem LinksHold.fullReset (s : State) (straps : Straps) (proved : Vector Bool 4) :
    LinksHold (s.fullReset straps proved) := .of_reset fun l => ⟨false, State.reset_link l⟩

theorem LinksHold.restartNow (s : State) : LinksHold s.restartNow :=
  .of_reset fun l => ⟨(s.link l).inBreak, by cases l <;> rfl⟩

/-- A request is taken only into a queue with a free entry (R147). -/
theorem State.hasRoom_of_takable (h : s.takable l = some f) : (s.link l).queue.length < Config.transmitRoom := by
  unfold State.takable at h
  split at h
  · cases h
  · rename_i hn
    simp only [Bool.or_eq_true, not_or, Bool.not_eq_true', Bool.not_eq_false, LinkUnit.hasRoom, decide_eq_true_eq] at hn
    exact hn.2

theorem LinksHold.answered (h : LinksHold s) (hf : s.takable l = some f) (edit : Bool) (x : Result) (d : List Field) :
    LinksHold (s.answered l edit f x d) := by
  intro l'
  by_cases e : l' = l
  · subst e
    have hroom := State.hasRoom_of_takable hf
    have hbuffer := (h l').2
    rw [State.answered_link_self]
    simp only [List.length_append, List.length_cons, List.length_nil, List.length_tail]
    omega
  · rw [State.answered_link_other _ _ _ _ _ _ e]
    exact h l'

theorem LinksHold.takeRequest (h : LinksHold s) (r : Request) (l : Link) (edit : Bool) :
    LinksHold (State.takeRequest r l edit (ownerOf r) s) := by
  by_cases ht : ∃ f, s.takable l = some f ∧ f.request = r
  · obtain ⟨f, hf, hr⟩ := ht
    obtain ⟨x, d, he⟩ := State.takeRequest_of_takable edit hf hr
    exact (h.answered hf edit x d).joins (.of_effect he)
  · rwa [State.takeRequest_of_none _ fun f hf hr => ht ⟨f, hf, hr⟩]

/-- A frame joins the buffer only into a free place (R147). -/
theorem LinkUnit.offer_room {k : LinkUnit} (f : Frame) (h : k.buffer.length ≤ Config.receiveRoom) :
    (k.offer f).queue = k.queue ∧ (k.offer f).buffer.length ≤ Config.receiveRoom := by
  unfold LinkUnit.offer
  split
  · rename_i hroom
    exact ⟨rfl, by rw [List.length_append]; exact hroom⟩
  · exact ⟨rfl, h⟩

theorem LinksHold.closeFrame (h : LinksHold s) (l : Link) (f : OpenFrame) : LinksHold (s.closeFrame l f) := by
  unfold State.closeFrame
  split
  · exact h.modLink l (h l)
  · have heard := (h.modLink l (g := fun k => { k with assembly := none }) (h l)).joins (.heard _ l)
    obtain ⟨hq, hb⟩ := heard l
    obtain ⟨hq', hb'⟩ := LinkUnit.offer_room ‹Frame› hb
    exact heard.modLink l ⟨hq' ▸ hq, hb'⟩

theorem LinksHold.receive (h : LinksHold s) (l : Link) (c : Character) : LinksHold (s.receive l c) := by
  unfold State.receive
  split
  · exact h
  · split_ifs
    · exact h.modLink l (h l)
    · exact h
  · exact h.modLink l (h l)
  · split_ifs
    · exact h.closeFrame l _
    · exact h.modLink l (h l)
    · exact h.modLink l (h l)

theorem LinksHold.breakLine (h : LinksHold s) (l : Link) : LinksHold (s.breakLine l) := by
  unfold State.breakLine
  dsimp only
  split
  · exact .restartNow _
  · exact (h.modLink l ⟨Nat.zero_le _, Nat.zero_le _⟩).joins (.becomeAbsent _ l _)

/-- A message that begins to be sent leaves the queue (R148). -/
theorem LinkUnit.beginSending_room {k k' : LinkUnit} (h : k.beginSending = some k') :
    k'.queue.length ≤ k.queue.length ∧ k'.buffer = k.buffer := by
  unfold LinkUnit.beginSending at h
  split at h
  · rename_i m rest _ hq
    cases h
    rw [hq]
    exact ⟨Nat.le_succ _, by cases m <;> rfl⟩
  · cases h

theorem NoticesJoin.lookAtRoom (s : State) (l : Link) : NoticesJoin s (s.lookAtRoom l) := by
  cases l with
  | fill => exact .refl s
  | cut => exact (CutWork.cutLook s).links.joins
  | press => exact (LineWork.lineLook s).links.joins
  | console => exact .refl s

theorem LinksHold.frameSendStart {k : LinkUnit} (h : LinksHold s) (l : Link) (hk : (s.link l).beginSending = some k) :
    LinksHold ((s.setLink l k).lookAtRoom l) := by
  obtain ⟨hq, hb⟩ := h l
  obtain ⟨hq', hb'⟩ := LinkUnit.beginSending_room hk
  exact (h.modLink l (g := fun _ => k) ⟨hq'.trans hq, hb' ▸ hb⟩).joins (.lookAtRoom _ l)

theorem NoticesJoin.holdReset (s : State) : NoticesJoin s s.holdReset := fun l => by cases l <;> exact .of_eq rfl rfl

/-- An event that is the work of a block when it comes about. -/
theorem LinksHold.of_work {x : Prop} [Decidable x] (h : LinksHold s) (hw : Work s u)
    (ht : Host.Outcome.next (φ := Fault) (ρ := Refusal) (if x then u else s) = .next t) : LinksHold t :=
  keeps_of_next_ite (fun _ => h.joins hw.joins) (fun _ => h) ht

/-- An event that comes about unless something forbids it. -/
theorem LinksHold.of_not {x : Prop} [Decidable x] (h : LinksHold s) (hu : LinksHold u)
    (ht : Host.Outcome.next (φ := Fault) (ρ := Refusal) (if x then s else u) = .next t) : LinksHold t :=
  keeps_of_next_ite (fun _ => h) (fun _ => hu) ht

theorem LinksHold.exec {i : Instr} (hs : LinksHold s) (h : exec i s = .next t) : LinksHold t := by
  induction i using Instr.cases_request with
  | request l edit r =>
    rw [exec_ofRequest] at h
    cases h
    exact hs.takeRequest r l edit
  | powerOnReset resetn rate1 rate0 proved =>
    cases h
    exact LinksHold.fullReset s ⟨rate1, rate0⟩ proved
  | resetnAsserted => exact hs.of_not (hs.joins (.holdReset s)) h
  | resetRelease => exact keeps_of_next_ite (fun _ => .fullReset s _ _) (fun _ => hs) h
  | frameClosed l =>
    cases h
    split
    · split
      · exact hs
      · exact hs.closeFrame l _
    · exact hs
  | frameAbandoned l =>
    cases h
    split
    · split
      · exact hs
      · exact hs.modLink l (hs l)
    · exact hs
  | lineBreak l => exact hs.of_not (hs.breakLine l) h
  | presenceTimeout l => exact keeps_of_next_ite (fun _ => hs.joins (.becomeAbsent s l _)) (fun _ => hs) h
  | frameSendStart l =>
    cases h
    split
    · rename_i hk
      split
      · exact hs
      · exact hs.frameSendStart l hk
    · exact hs
  | frameSent l =>
    cases h
    split_ifs
    · exact hs
    · exact .restartNow s
    · exact hs.modLink l (hs l)
  | cutOpenReached v => exact hs.of_work (.applyCutOpen s v) h
  | urgencyMoment v => exact hs.of_work (.applyUrgency s v) h
  | cutCloseReached v => exact hs.of_work (.applyCutClose s v) h
  | healMinReached v => exact hs.of_work (.applyHealMin s v) h
  | healMaxReached v => exact hs.of_work (.applyHealMax s v) h
  | provedRise b =>
    cases h
    split_ifs
    · exact hs
    · exact hs
    · exact hs.joins (BankWork.applyProvedRise b (s.seeProved b true)).work.joins
  | provedFall b =>
    cases h
    split_ifs
    · exact hs
    · exact hs
    · exact hs.joins (BankWork.applyProvedFall b (s.seeProved b false)).work.joins
  | flowPulse b => exact hs.of_not (hs.joins (BankWork.applyFlow b s).work.joins) h
  | travelTimerExpiry b => exact hs.of_work (BankWork.faultBank b s _).work h
  | drainTimerExpiry b => exact hs.of_work (BankWork.endDrain b s).work h
  | pathOpenLimit b => exact hs.of_work (BankWork.expirePath b s).work h
  | noFlowTimerExpiry b => exact hs.of_work (BankWork.applyNoFlow b s).work h
  | flushTimerExpiry b => exact hs.of_work (BankWork.applyFlushExpiry b s).work h
  | rinseCounterMatch b => exact hs.of_work (BankWork.applyRinseMatch b s).work h
  | rinseTimerExpiry b => exact hs.of_work (BankWork.enterReady b s).work h
  | parkTimerExpiry b => exact hs.of_work (BankWork.parkBank b s).work h
  | parkDrainEnd b => exact hs.of_work (BankWork.modBank b s _).work h
  | cutStartTimerExpiry c => exact hs.of_work (.applyCutStartExpiry s c) h
  | sliceTimerExpiry c => exact hs.of_work (.applySliceExpiry s c) h
  | dumpStartTimerExpiry => exact hs.of_work (.applyDumpStartExpiry s) h
  | dumpDurationExpiry => exact hs.of_work (.applyDurationExpiry s) h
  | characterReceived l c => exact hs.of_not (hs.receive l c) h
  | lineReturnedToMark l => exact hs.of_not (hs.modLink l (hs l)) h

/-- A tick counts presence timers on, and leaves what waits on the links. -/
theorem NoticesJoin.tick (s : State) : NoticesJoin s s.tick := fun l => by cases l <;> exact .of_eq rfl rfl

/-- Settles O7: a reply joins a queue that had room when the request was taken, a notice or a frame joins only where there is
room, and nothing else makes a queue or a buffer longer. -/
theorem everyStepKeepsLinkRoom : Obligations.EveryStepKeepsLinkRoom := by
  intro s t hs hstep
  rcases step_cases hstep with ⟨i, p, d, h⟩ | ⟨d, rfl⟩ | rfl
  · exact LinksHold.exec (s := { s with pending := p, drawn := d }) hs h
  · exact LinksHold.joins (s := { s with drawn := d }) hs (.tick _)
  · exact hs

end Sys2Proof.Machine
end

section
/-! PROOFS. What each character does to the receive assembly (O16), the check of a closed frame (O17), the ends of gaps,
breaks and sent frames (O18), and that a frame sent is the frame received (O15). -/

namespace Sys2Proof.Machine

variable {s : State} {l : Link} {f : OpenFrame} {b x : Byte}

/-! ### A byte added to an open frame (R142, R144) -/

theorem OpenFrame.push_of_room (h : f.bytes.length < Config.frameRoom) (b : Byte) :
    f.push b = { f with bytes := f.bytes ++ [b] } := if_pos h

theorem OpenFrame.push_of_full (h : Config.frameRoom ≤ f.bytes.length) (b : Byte) : f.push b = { f with bad := true } :=
  if_neg h.not_gt

theorem OpenFrame.add_plain (he : f.escape = false) (hb : b ≠ escapeByte) :
    f.add b = { f with received := true }.push b := by
  simp only [OpenFrame.add, he, hb, Bool.false_eq_true, if_false]

theorem OpenFrame.add_escapeByte (he : f.escape = false) :
    f.add escapeByte = { f with received := true, escape := true } := by
  simp only [OpenFrame.add, he, Bool.false_eq_true, if_false, if_true]

theorem OpenFrame.add_escaped (he : f.escape = true) (hx : unescaped b = some x) :
    f.add b = { f with received := true, escape := false }.push x := by
  simp only [OpenFrame.add, he, hx, if_true]

theorem OpenFrame.add_wrong (he : f.escape = true) (hx : unescaped b = none) :
    f.add b = { f with received := true, escape := false, bad := true } := by
  simp only [OpenFrame.add, he, hx, if_true]

theorem unescaped_eq_none (h : b ≠ 0x7A) (h' : b ≠ 0x7B) : unescaped b = none := by
  simp only [unescaped, h, h', if_false]

/-! ### A character received on a link (R144) -/

/-- Out of reset and of a break a character goes to the assembly. -/
theorem exec_characterReceived (hr : s.inReset = false) (hb : (s.link l).inBreak = false) (c : Character) :
    exec (.characterReceived l c) s = .next (s.receive l c) := congrArg _ (if_neg (by simp [hr, hb]))

theorem State.receive_closed (ha : (s.link l).assembly = none) (hb : b ≠ delimiter) : s.receive l (.byte b) = s := by
  simp only [State.receive, ha, hb, if_false]

theorem State.receive_opening (ha : (s.link l).assembly = none) :
    s.receive l (.byte delimiter) = s.modLink l fun u => { u with assembly := some .fresh } := by
  simp only [State.receive, ha, if_true]

theorem State.receive_error_closed (ha : (s.link l).assembly = none) : s.receive l .error = s := by
  simp only [State.receive, ha]

theorem State.receive_error (ha : (s.link l).assembly = some f) :
    s.receive l .error = s.modLink l fun u => { u with assembly := some { f with bad := true, gapEnded := true } } := by
  simp only [State.receive, ha]

theorem State.receive_byte (ha : (s.link l).assembly = some f) (hb : b ≠ delimiter) :
    s.receive l (.byte b) = s.modLink l fun u => { u with assembly := some (f.add b) } := by
  simp only [State.receive, ha, hb, if_false]

theorem State.receive_reopening (ha : (s.link l).assembly = some f) (hf : f.received = false) :
    s.receive l (.byte delimiter) = s.modLink l fun u => { u with assembly := some .fresh } := by
  simp only [State.receive, ha, hf, Bool.false_eq_true, if_true, if_false]

theorem State.receive_closing (ha : (s.link l).assembly = some f) (hf : f.received = true) :
    s.receive l (.byte delimiter) = s.closeFrame l f := by
  simp only [State.receive, ha, hf, if_true]

theorem exec_frameClosed (hr : s.inReset = false) (ha : (s.link l).assembly = some f) (hf : f.received = true) :
    exec (.frameClosed l) s = .next (s.closeFrame l f) := by
  change Host.Outcome.next _ = _
  simp only [ha, hr, hf, Bool.false_or, Bool.not_true, Bool.false_eq_true, if_false]

/-- Settles O16: a character opens, adds to, closes or spoils the assembly, by the rows of R144's table. -/
theorem charactersBuildFrames : Obligations.CharactersBuildFrames := by
  refine ⟨fun s l hr hb => ⟨fun ha => ⟨?_, fun b hd => ?_, ?_⟩,
      fun f ha => ⟨fun hf => ?_, fun hf => ?_, fun b hd => ?_, ?_⟩⟩,
    fun f => ⟨fun b he hb hroom => ?_, fun b he hb hfull => ?_, fun he => f.add_escapeByte he,
      fun he hroom => ⟨?_, ?_⟩, fun b he h h' => ?_⟩, fun f he hfull => ⟨?_, ?_⟩⟩
  · rw [exec_characterReceived hr hb, State.receive_opening ha]
    rfl
  · rw [exec_characterReceived hr hb, State.receive_closed ha hd]
  · rw [exec_characterReceived hr hb, State.receive_error_closed ha]
  · rw [exec_characterReceived hr hb, State.receive_reopening ha hf]
    rfl
  · rw [exec_characterReceived hr hb, State.receive_closing ha hf, exec_frameClosed hr ha hf]
  · rw [exec_characterReceived hr hb, State.receive_byte ha hd]
  · rw [exec_characterReceived hr hb, State.receive_error ha]
  · exact (OpenFrame.add_plain he hb).trans (OpenFrame.push_of_room (by exact hroom) b)
  · exact (OpenFrame.add_plain he hb).trans (OpenFrame.push_of_full (by exact hfull) b)
  · exact (OpenFrame.add_escaped he rfl).trans (OpenFrame.push_of_room (by exact hroom) delimiter)
  · exact (OpenFrame.add_escaped he rfl).trans (OpenFrame.push_of_room (by exact hroom) escapeByte)
  · rw [OpenFrame.add_wrong he (unescaped_eq_none h h')]
    exact ⟨rfl, rfl⟩
  · exact (OpenFrame.add_escaped he rfl).trans (OpenFrame.push_of_full (by exact hfull) delimiter)
  · exact (OpenFrame.add_escaped he rfl).trans (OpenFrame.push_of_full (by exact hfull) escapeByte)

/-! ### The check of a closed frame (R143, R145) -/

theorem lowFirst_length (w : Nat) : ∀ n, (lowFirst w n).length = w := by
  induction w with
  | zero => exact fun _ => rfl
  | succ w ih => exact fun n => congrArg (· + 1) (ih (n / 256))

/-- Bytes that end in two more than their kind, tag, flags and payload make a frame when these two are the CRC of the others
and the kind's top bit is clear. -/
theorem frameOf_split (kind tag flags : Byte) (payload check : List Byte) (h : check.length = 2) :
    frameOf (kind :: tag :: flags :: (payload ++ check)) =
      if check ≠ lowFirst 2 (crcOf (kind :: tag :: flags :: payload)).toNat then none
      else if kind.msb then none else some ⟨kind, tag, flags, payload⟩ := by
  have hn : (payload ++ check).length - 2 = payload.length := by rw [List.length_append, h, Nat.add_sub_cancel]
  have hle : ¬ (payload ++ check).length < 2 := by rw [List.length_append]; omega
  simp only [frameOf, hle, hn, List.take_left', List.drop_left', if_false]

/-- Bytes that make a frame are at least its kind, tag, flags and CRC. -/
theorem frameOf_length {bs : List Byte} {x : Frame} (h : frameOf bs = some x) :
    ∃ kind tag flags payload check, bs = kind :: tag :: flags :: (payload ++ check) ∧ check.length = 2 := by
  unfold frameOf at h
  split at h
  · rename_i kind tag flags rest
    have hlen : ¬ rest.length < 2 := fun hlt => by simp [hlt] at h
    refine ⟨kind, tag, flags, rest.take (rest.length - 2), rest.drop (rest.length - 2), ?_, ?_⟩
    · rw [List.take_append_drop]
    · rw [List.length_drop]
      omega
  · cases h

/-- Bytes make exactly the frame whose bytes they are, when its kind's top bit is clear. -/
theorem frameOf_eq_some {bs : List Byte} {x : Frame} :
    frameOf bs = some x ↔ x.kind.msb = false ∧ bs = frameBytes x.kind x.tag x.flags x.payload := by
  constructor
  · intro h
    obtain ⟨kind, tag, flags, payload, check, rfl, hlen⟩ := frameOf_length h
    rw [frameOf_split _ _ _ _ _ hlen] at h
    split_ifs at h with hcheck hkind
    cases h
    exact ⟨Bool.eq_false_of_not_eq_true hkind, congrArg (kind :: tag :: flags :: payload ++ ·) (not_not.mp hcheck)⟩
  · rintro ⟨hkind, rfl⟩
    refine (frameOf_split _ _ _ _ _ (lowFirst_length 2 _)).trans ?_
    rw [if_neg (not_not.mpr rfl), hkind]
    rfl

theorem OpenFrame.valid_eq_some {x : Frame} : f.valid = some x ↔
    f.bad = false ∧ f.escape = false ∧ x.kind.msb = false ∧ f.bytes = frameBytes x.kind x.tag x.flags x.payload := by
  unfold OpenFrame.valid
  rw [← frameOf_eq_some]
  cases f.bad <;> cases f.escape <;> simp

theorem State.closeFrame_invalid (h : f.valid = none) :
    s.closeFrame l f = s.modLink l fun u => { u with assembly := none, frameError := true } := by
  simp only [State.closeFrame, h]

theorem State.closeFrame_valid {x : Frame} (h : f.valid = some x) :
    s.closeFrame l f = ((s.modLink l fun u => { u with assembly := none }).heard l).modLink l fun u => u.offer x := by
  simp only [State.closeFrame, h]

theorem State.modLink_congr {g h : LinkUnit → LinkUnit} (e : g (s.link l) = h (s.link l)) :
    s.modLink l g = s.modLink l h := congrArg (s.setLink l) e

/-- A valid frame closed, and what its presence brings about, leave the buffer to be offered to (R147, R151). -/
theorem State.heard_closed_buffer (s : State) (l : Link) :
    (((s.modLink l fun u => { u with assembly := none }).heard l).link l).buffer = (s.link l).buffer := by
  rw [(NoticesJoin.heard _ l l).buffer, State.modLink_link_same]

/-- Settles O17: the bytes of a closed frame decide it, and a valid one takes a free place of the buffer or overruns. -/
theorem closedFramesAreChecked : Obligations.ClosedFramesAreChecked := by
  refine ⟨fun f x => OpenFrame.valid_eq_some,
    fun s l f hr ha hf => ⟨fun hv => ?_, fun x hv => ⟨fun hroom => ?_, fun hfull => ?_⟩⟩⟩
  · rw [exec_frameClosed hr ha hf, State.closeFrame_invalid hv]
  · rw [← s.heard_closed_buffer l] at hroom ⊢
    rw [exec_frameClosed hr ha hf, State.closeFrame_valid hv]
    exact congrArg _ (State.modLink_congr (if_pos hroom))
  · rw [← s.heard_closed_buffer l] at hfull
    rw [exec_frameClosed hr ha hf, State.closeFrame_valid hv]
    exact congrArg _ (State.modLink_congr (if_neg hfull.not_gt))

/-! ### Gaps, breaks and sent frames -/

/-- Settles O18: a gap takes an open frame whose gaps are timed, a mark ends a break, and the end of a frame frees its
line. -/
theorem gapsAndFrameEnds : Obligations.GapsAndFrameEnds := by
  refine ⟨fun s l hr => ⟨fun f ha hf hg => ?_, fun f ha hf => ?_, congrArg _ (if_neg (by simp [hr]))⟩,
    fun s l hr hs => ?_⟩
  · change Host.Outcome.next _ = _
    simp only [ha, hr, hf, hg, Bool.not_true, Bool.or_false, Bool.false_eq_true, if_false]
  · change Host.Outcome.next _ = _
    simp only [ha, hr, hf, Bool.not_false, Bool.or_true, Bool.true_or, if_true]
  · exact congrArg _ ((if_neg (by simp [hr])).trans (if_neg (by simp [hs])))

/-! ### A frame on the line (R141, R142) -/

/-- A good open frame that has received the bytes `bs` and no cut escape. -/
def OpenFrame.holding (bs : List Byte) : OpenFrame := ⟨bs, false, !bs.isEmpty, false, false⟩

theorem OpenFrame.holding_concat (bs : List Byte) (b : Byte) :
    OpenFrame.holding (bs ++ [b]) = ⟨bs ++ [b], false, true, false, false⟩ := by simp [OpenFrame.holding]

theorem State.receiveAll_append (s : State) (l : Link) (bs cs : List Byte) :
    s.receiveAll l (bs ++ cs) = (s.receiveAll l bs).receiveAll l cs := List.foldl_append

/-- A link with its assembly replaced. -/
def State.assembling (s : State) (l : Link) (f : OpenFrame) : State :=
  s.modLink l fun u => { u with assembly := some f }

theorem State.assembling_link (s : State) (l : Link) (f : OpenFrame) :
    (s.assembling l f).link l = { s.link l with assembly := some f } := State.modLink_link_same s l _

theorem State.receive_assembling (hb : b ≠ delimiter) :
    (s.assembling l f).receive l (.byte b) = s.assembling l (f.add b) := by
  rw [State.receive_byte (by rw [State.assembling_link]) hb]
  exact State.modLink_modLink s l _ _

/-- A byte as it goes on the line is received as that byte, escaped or not. -/
theorem State.receiveAll_escaped {bs : List Byte} (h : bs.length < Config.frameRoom) (b : Byte) :
    (s.assembling l (.holding bs)).receiveAll l (escaped b) = s.assembling l (.holding (bs ++ [b])) := by
  rw [OpenFrame.holding_concat]
  have stuffed (c : Byte) (hc : c ≠ delimiter) (hb : unescaped c = some b) :
      (s.assembling l (.holding bs)).receiveAll l [escapeByte, c] =
        s.assembling l ⟨bs ++ [b], false, true, false, false⟩ := by
    change ((s.assembling l (.holding bs)).receive l (.byte escapeByte)).receive l (.byte c) = _
    rw [State.receive_assembling (by decide), State.receive_assembling hc, OpenFrame.add_escapeByte rfl,
      OpenFrame.add_escaped rfl hb, OpenFrame.push_of_room h]
    rfl
  by_cases hd : b = delimiter
  · subst hd
    exact stuffed 0x7A (by decide) rfl
  by_cases he : b = escapeByte
  · subst he
    exact stuffed 0x7B (by decide) rfl
  · rw [escaped, if_neg (not_or.mpr ⟨hd, he⟩)]
    change (s.assembling l (.holding bs)).receive l (.byte b) = _
    rw [State.receive_assembling hd, OpenFrame.add_plain rfl he, OpenFrame.push_of_room h]
    rfl

theorem State.receiveAll_flatMap_escaped (s : State) (l : Link) (cs : List Byte) : ∀ bs : List Byte,
    bs.length + cs.length ≤ Config.frameRoom →
    (s.assembling l (.holding bs)).receiveAll l (cs.flatMap escaped) = s.assembling l (.holding (bs ++ cs)) := by
  induction cs with
  | nil =>
    intro bs _
    rw [List.append_nil]
    rfl
  | cons c cs ih =>
    intro bs h
    rw [List.length_cons] at h
    rw [List.flatMap_cons, State.receiveAll_append, State.receiveAll_escaped (by omega), ih _ (by simp; omega),
      List.append_assoc, List.singleton_append]

theorem frameBytes_length (kind tag flags : Byte) (payload : List Byte) :
    (frameBytes kind tag flags payload).length = payload.length + 5 := by
  simp [frameBytes, lowFirst_length]

/-- An assembly that was closed is closed again by the end of the frame that opened it. -/
theorem State.assembling_closed (ha : (s.link l).assembly = none) (f : OpenFrame) :
    ((s.assembling l f).modLink l fun u => { u with assembly := none }) = s := by
  rw [State.assembling, State.modLink_modLink]
  calc (s.modLink l fun u => { u with assembly := none })
      = s.setLink l (s.link l) := congrArg (s.setLink l) (by rw [← ha])
    _ = s := State.setLink_self s l

theorem State.receiveAll_lineBytes (ha : (s.link l).assembly = none) (kind tag flags : Byte) {payload : List Byte}
    (hkind : kind.msb = false) (hlen : payload.length ≤ 48) :
    s.receiveAll l (lineBytes kind tag flags payload) =
      (s.heard l).modLink l fun u => u.offer ⟨kind, tag, flags, payload⟩ := by
  have hroom : ([] : List Byte).length + (frameBytes kind tag flags payload).length ≤ Config.frameRoom := by
    rw [List.length_nil, Nat.zero_add, frameBytes_length]
    exact Nat.add_le_add_right hlen 5
  have hopen : s.receive l (.byte delimiter) = s.assembling l (.holding []) := State.receive_opening ha
  have hvalid : (OpenFrame.holding (frameBytes kind tag flags payload)).valid = some ⟨kind, tag, flags, payload⟩ :=
    OpenFrame.valid_eq_some.mpr ⟨rfl, rfl, hkind, rfl⟩
  calc s.receiveAll l (lineBytes kind tag flags payload)
      = ((s.receive l (.byte delimiter)).receiveAll l ((frameBytes kind tag flags payload).flatMap escaped)).receive l
          (.byte delimiter) := State.receiveAll_append s l (delimiter :: _) [delimiter]
    _ = (s.assembling l (.holding (frameBytes kind tag flags payload))).receive l (.byte delimiter) := by
        rw [hopen, State.receiveAll_flatMap_escaped s l _ [] hroom, List.nil_append]
    _ = (s.assembling l (.holding (frameBytes kind tag flags payload))).closeFrame l
          (.holding (frameBytes kind tag flags payload)) := State.receive_closing (by rw [State.assembling_link]) rfl
    _ = (s.heard l).modLink l fun u => u.offer ⟨kind, tag, flags, payload⟩ := by
        rw [State.closeFrame_valid hvalid, State.assembling_closed ha]

/-! ### The bits of a character (R140) -/

theorem ofBoolListLE_bits (b : Byte) : BitVec.ofBoolListLE ((List.range 8).map b.getLsbD) = b := by
  refine BitVec.eq_of_getLsbD_eq fun i hi => ?_
  have hi : i < 8 := hi
  rw [BitVec.getLsbD_ofBoolListLE, List.getD_eq_getElem?_getD, List.getElem?_map, List.getElem?_range hi]
  rfl

theorem characterLevels_bit (b : Byte) {i : Nat} (hi : i < 8) : (characterLevels b)[i + 1]? = some (b.getLsbD i) := by
  simp [characterLevels, List.getElem?_append, hi]

theorem characterOf_levels (b : Byte) (stop : Bool) :
    characterOf ((characterLevels b).take 9 ++ [stop]) = some (if stop then .byte b else .error) := by
  conv_rhs => rw [← ofBoolListLE_bits b]
  rfl

/-- Settles O15: each byte of the frame, escaped where it must be, adds itself to the open frame, and the closing delimiter
finds the frame's own bytes. -/
theorem frameSentIsFrameReceived : Obligations.FrameSentIsFrameReceived := by
  refine ⟨fun s l kind tag flags payload ha hkind hlen => State.receiveAll_lineBytes ha kind tag flags hkind hlen,
    fun b => ⟨rfl, rfl, rfl, fun i => characterLevels_bit b i.isLt, characterOf_levels b true,
      characterOf_levels b false⟩,
    fun s l => ⟨fun h => ?_, fun x h => ?_, fun h => ?_, fun h => ?_, fun h => ?_, fun h => ?_⟩⟩
  · simp only [State.transmitLevels, h]
  · simp only [State.transmitLevels, h, SentFrame.line]
  all_goals
    rw [State.bitRate, h]
    rfl

end Sys2Proof.Machine
end

section
/-! PROOFS. Every part of a report fits a payload, and how fields and names are coded (O24). -/

namespace Sys2Proof.Machine

/-- The bytes that fields take, field by field. -/
def fieldSizes (d : List Field) : List Nat := d.map Field.size

theorem sum_fieldSizes_append (d e : List Field) :
    (fieldSizes (d ++ e)).sum = (fieldSizes d).sum + (fieldSizes e).sum := by simp [fieldSizes]

/-- Items of at most `k` bytes each take at most `k` bytes for each of them. -/
theorem sum_fieldSizes_flatten_le {k : Nat} {items : List (List Field)} (h : ∀ i ∈ items, (fieldSizes i).sum ≤ k) :
    (fieldSizes items.flatten).sum ≤ items.length * k := by
  induction items with
  | nil => exact Nat.zero_le _
  | cons i is ih =>
    have hi := h i List.mem_cons_self
    have his := ih fun j hj => h j (List.mem_cons_of_mem i hj)
    rw [List.flatten_cons, sum_fieldSizes_append, List.length_cons, Nat.succ_mul]
    omega

/-- A report whose part 0 takes at most 43 bytes, and whose items of the sizes `each` go `n` to a part within 43 bytes: with
the result code and the four bytes before the part it fits a payload of 48 bytes (R141, R165). -/
theorem Report.data_fits {r : Report} (each : List Nat) (n : Nat) (hhead : (fieldSizes r.head).sum ≤ 43)
    (hitems : ∀ i ∈ r.items, fieldSizes i = each) (hn : r.perPart = n) (hroom : n * each.sum ≤ 43)
    (subject number part : Nat) : 1 + ((r.data subject number part).map Field.size).sum ≤ 48 := by
  have hpart : (fieldSizes (r.part part)).sum ≤ 43 := by
    cases part with
    | zero => exact hhead
    | succ p =>
      have hsize : ∀ i ∈ (r.items.drop (p * r.perPart)).take r.perPart, (fieldSizes i).sum ≤ each.sum := fun i hi =>
        (congrArg List.sum (hitems i (List.mem_of_mem_drop (List.mem_of_mem_take hi)))).le
      calc (fieldSizes (r.part (p + 1))).sum
          ≤ ((r.items.drop (p * r.perPart)).take r.perPart).length * each.sum := sum_fieldSizes_flatten_le hsize
        _ ≤ r.perPart * each.sum := Nat.mul_le_mul_right _ (List.length_take_le _ _)
        _ ≤ 43 := hn ▸ hroom
  have hdata : (fieldSizes (r.data subject number part)).sum = 4 + (fieldSizes (r.part part)).sum :=
    sum_fieldSizes_append _ _
  change 1 + (fieldSizes (r.data subject number part)).sum ≤ 48
  omega

/-! ### The sizes of each report's part 0 and of its items -/

theorem State.vatReport_sizes (s : State) (v : Vat) : fieldSizes (s.vatReport v).head =
    [1, 1, 1, 1, 1, 1, 1, 1, 1, 1, 3, 2, 3, 3, 3, 3, 2, 2, 1, 2] := rfl

theorem State.bankReport_sizes (s : State) (b : Bank) : fieldSizes (s.bankReport b).head =
    [1, 1, 1, 1, 1, 1, 3, 1, 1] ++ [1, 1, 2, 3, 2, 1, 2] ++ [1, 1, 1, 1, 3, 1, 1, 2, 3, 2, 1] := rfl

theorem State.carriageReport_sizes (s : State) (c : Carriage) : fieldSizes (s.carriageReport c).head =
    [1, 1, 1, 1, 1, 4, 1, 1, 1, 1, 5, 5, 3, 1, 1] := rfl

theorem State.lineReport_sizes (s : State) : fieldSizes s.lineReport.head =
    [1, 1, 4, 2, 1, 1, 1, 5, 5, 3, 1, 1, 1, 2] := rfl

theorem State.cutListsReport_sizes (s : State) : fieldSizes s.cutListsReport.head = [1, 1, 1] := rfl

theorem State.lotListReport_sizes (s : State) : fieldSizes s.lotListReport.head = [1] := rfl

theorem State.dumpListsReport_sizes (s : State) : fieldSizes s.dumpListsReport.head = [1, 1] := rfl

theorem VatRecord.times_sizes (r : VatRecord) : fieldSizes r.times = [5, 5, 5, 5, 5, 5] := rfl

theorem Transfer.fields_sizes (e : Transfer) : fieldSizes e.fields = [1, 1, 2, 2, 1] := rfl

theorem State.cutEntryFields_sizes (s : State) (e : CutEntry) : fieldSizes (s.cutEntryFields e) = [1, 1, 5, 4, 1] := rfl

theorem Lot.fields_sizes (x : Lot) : fieldSizes x.fields = [2, 1, 1, 2, 1, 1, 2, 3, 1, 1, 4] := rfl

theorem State.dumpEntryFields_sizes (s : State) (e : DumpEntry) :
    fieldSizes (s.dumpEntryFields e) = [1, 1, 1, 1, 4, 1] := rfl

/-- Each entry of the early window takes three bytes in its report (R138). -/
theorem sum_fieldSizes_window (w : List CompletedDump) :
    (fieldSizes (w.flatMap fun d => [.two d.lot, .mark d.early])).sum = 3 * w.length := by
  induction w with
  | nil => rfl
  | cons d ds ih =>
    rw [List.flatMap_cons, sum_fieldSizes_append, ih, List.length_cons, Nat.mul_succ, Nat.add_comm]
    rfl

/-- The report of the early window is one part, of at most eight entries (R135, R138). -/
theorem State.windowReport_head_le (s : State) (h : s.window.length ≤ Config.windowRoom) :
    (fieldSizes s.windowReport.head).sum ≤ 26 := by
  have hcount : fieldSizes [Field.one s.window.length] = [1] := rfl
  have hfree : fieldSizes [Field.mark (!s.allowanceInUse)] = [1] := rfl
  have hroom : s.window.length ≤ 8 := h
  simp only [State.windowReport, sum_fieldSizes_append, sum_fieldSizes_window, hcount, hfree, List.sum_singleton]
  omega

/-- Settles O24: each report's part 0 and its items have known sizes, and the items to a part are few enough. -/
theorem reportsFitTheirPayload : Obligations.ReportsFitTheirPayload := by
  refine ⟨fun s subject number part hs => ⟨fun v => ?_, fun b => ?_, fun c => ?_, ?_, ?_, ?_, ?_, ?_⟩,
    fun w n => ⟨rfl, rfl, rfl, rfl⟩, by decide⟩
  · have hhead := congrArg List.sum (s.vatReport_sizes v)
    exact Report.data_fits _ 1 (hhead.le.trans (by decide)) (List.forall_mem_singleton.mpr (VatRecord.times_sizes _)) rfl
      (by decide) ..
  · have hhead := congrArg List.sum (s.bankReport_sizes b)
    exact Report.data_fits _ 6 (hhead.le.trans (by decide)) (List.forall_mem_map.mpr fun e _ => e.fields_sizes) rfl
      (by decide) ..
  · have hhead := congrArg List.sum (s.carriageReport_sizes c)
    exact Report.data_fits [] 1 (hhead.le.trans (by decide)) (fun _ h => (List.not_mem_nil h).elim) rfl (by decide) ..
  · have hhead := congrArg List.sum s.cutListsReport_sizes
    exact Report.data_fits _ 3 (hhead.le.trans (by decide)) (List.forall_mem_map.mpr fun e _ => s.cutEntryFields_sizes e) rfl
      (by decide) ..
  · have hhead := congrArg List.sum s.lineReport_sizes
    exact Report.data_fits [] 1 (hhead.le.trans (by decide)) (fun _ h => (List.not_mem_nil h).elim) rfl (by decide) ..
  · have hhead := congrArg List.sum s.lotListReport_sizes
    exact Report.data_fits _ 2 (hhead.le.trans (by decide)) (List.forall_mem_map.mpr fun x _ => x.fields_sizes) rfl
      (by decide) ..
  · have hhead := congrArg List.sum s.dumpListsReport_sizes
    exact Report.data_fits _ 4 (hhead.le.trans (by decide))
      (List.forall_mem_map.mpr fun e _ => s.dumpEntryFields_sizes e) rfl (by decide) ..
  · exact Report.data_fits [] 1 ((s.windowReport_head_le hs.2).trans (by decide))
      (fun _ h => (List.not_mem_nil h).elim) rfl (by decide) ..

end Sys2Proof.Machine
end

section
/-! PROOFS. STATUS on every link (O25), GET of the settings store and the numbers of its items (O48). -/

namespace Sys2Proof.Machine

variable {s : State} {l : Link} {edit : Bool} {f : Frame} {i : Item} {n : Nat}

/-! ### STATUS -/

/-- The link of a request being taken: the frame leaves its buffer, and its marks are as they were. -/
theorem State.taken_link_self (s : State) (l : Link) (edit : Bool) :
    (s.taken l edit).link l = { s.link l with buffer := (s.link l).buffer.tail } := State.modLink_link_same ..

/-- Settles O25: the taking leaves the marks and the clock, so the reply holds them as they stood, and the owner then turns
the marks off. -/
theorem statusReportsAndClearsMarks : Obligations.StatusReportsAndClearsMarks := by
  intro s l edit f ha
  refine (exec_of_asks ha).trans (congrArg _ ?_)
  change State.applyStatus ⟨l, f⟩ (s.taken l edit) = _
  rw [State.applyStatus, State.taken_link_self, State.taken_clock]
  rfl

/-! ### GET -/

/-- An asked GET of a number that names an item. -/
theorem exec_get (ha : Asks s l edit .get f) (hi : itemOf? (f.byteAt 0) = some i) : exec (.get l edit) s =
    .next (s.answered l edit f .done [.one (f.byteAt 0), .two (s.settings.get i)]) := by
  refine (exec_of_asks ha).trans (congrArg _ ?_)
  change State.applyGet ⟨l, f⟩ (s.taken l edit) = _
  rw [State.applyGet, hi, State.inRange_some, State.taken_settings]
  rfl

/-! ### The numbers of the items (R162) -/

/-- The four numbers of each class lie in 1 to 32 and name its four times. -/
theorem itemOf?_class (c : RecipeClass) :
    itemOf? (1 + 4 * c.val) = some (.firmMin c) ∧ itemOf? (2 + 4 * c.val) = some (.firmMax c) ∧
      itemOf? (3 + 4 * c.val) = some (.healMin c) ∧ itemOf? (4 + 4 * c.val) = some (.healMax c) := by
  revert c
  decide

/-- The numbers outside the blocks 1-32, 40-54, 60-67, 70-72 and 80 name no item. -/
theorem itemOf?_of_gap
    (h : n = 0 ∨ (33 ≤ n ∧ n ≤ 39) ∨ (55 ≤ n ∧ n ≤ 59) ∨ n = 68 ∨ n = 69 ∨ (73 ≤ n ∧ n ≤ 79) ∨ 81 ≤ n) :
    itemOf? n = none := by
  have hclass : ¬(1 ≤ n ∧ n ≤ 32) := by omega
  simp only [itemOf?, if_neg hclass]
  split
  case h_28 => rfl
  all_goals omega

/-- Settles O48: an asked GET reads one item of the store; a number that names none is out of its range. -/
theorem getReadsTheStore : Obligations.GetReadsTheStore := by
  obtain ⟨-, hrange, -⟩ := firstChecksDecide
  refine ⟨fun s l edit f ha => ⟨fun hi => hrange s l edit .get f ha ?_, fun i hi => exec_get ha hi⟩,
    itemOf?_class, rfl, fun n => itemOf?_of_gap⟩
  rw [fieldsInRange, hi, Option.isSome_none]

end Sys2Proof.Machine
end

section
/-! PROOFS. What the part does with an empty queue, and what a tick counts (O2). -/

namespace Sys2Proof.Machine

variable {s : State}

/-! ### The steps the part can make by itself -/

theorem State.moves_of_inReset (h : s.inReset = true) : s.moves = [] := if_pos h

/-- Anything due keeps the tick out of the moves. -/
theorem State.moves_of_due (hr : s.inReset = false) (hd : s.dueEvents ≠ []) :
    s.moves = (s.dueEvents ++ s.ownEvents).map Move.event := by
  simp [State.moves, hr, hd]

theorem State.moves_of_nothing (hr : s.inReset = false) (hd : s.dueEvents = []) (ho : s.ownEvents = []) :
    s.moves = [.tick] := by
  simp [State.moves, hr, hd, ho]

/-- Where there is a move, one of them is chosen, whatever the free choice draws. -/
theorem State.chosenMove_mem (h : s.moves ≠ []) : ∃ m ∈ s.moves, s.chosenMove = some m := by
  unfold State.chosenMove
  split
  · exact ⟨s.moves.head h, List.head_mem h, List.head?_eq_some_head h⟩
  · have hlt := Nat.mod_lt (Config.choice s.drawn) (List.length_pos_iff.mpr h)
    exact ⟨_, List.getElem_mem hlt, List.getElem?_eq_getElem hlt⟩

/-! ### The step with an empty queue -/

theorem step_of_empty (h : s.pending = []) : step s = s.ownStep := by
  rw [step, h]

theorem State.ownStep_of_event {i : Instr} (h : s.chosenMove = some (.event i)) : s.ownStep = exec i s.afterChoice := by
  rw [State.ownStep, h]

/-- Held in reset the part idles (R172). -/
theorem State.ownStep_of_inReset (h : s.inReset = true) : s.ownStep = .next s := by
  simp [State.ownStep, State.chosenMove, State.moves_of_inReset h]

/-- The tick that is the only move is made without a draw of the free counter. -/
theorem State.ownStep_of_nothing (hr : s.inReset = false) (hd : s.dueEvents = []) (ho : s.ownEvents = []) :
    s.ownStep = .next s.tick := by
  simp [State.ownStep, State.chosenMove, State.afterChoice, State.moves_of_nothing hr hd ho]

theorem State.ownStep_of_due (hr : s.inReset = false) (hd : s.dueEvents ≠ []) :
    ∃ i ∈ s.dueEvents ++ s.ownEvents, s.ownStep = exec i s.afterChoice := by
  have hm := State.moves_of_due hr hd
  obtain ⟨m, hmem, hchosen⟩ := State.chosenMove_mem (s := s) (by simp [hm, hd])
  rw [hm] at hmem
  obtain ⟨i, hi, rfl⟩ := List.mem_map.mp hmem
  exact ⟨i, hi, State.ownStep_of_event hchosen⟩

/-! ### The tick, record by record -/

theorem State.tick_clock (h : s.clock + 1 < Config.clockRange) : s.tick.clock = s.clock + 1 := if_pos h

theorem State.tick_bank (s : State) (b : Bank) : s.tick.bank b = (s.bank b).tick (s.rinseCounts b) := by
  simp [State.tick, State.bank]

theorem State.tick_carriage (s : State) (c : Carriage) : s.tick.carriage c = (s.carriage c).tick := by
  simp [State.tick, State.carriage]

theorem State.tick_link (s : State) (l : Link) : s.tick.link l = (s.link l).tick := by
  cases l <;> rfl

/-- The tick writes the clock, the banks, the carriages, the line and the links, and no other field. -/
theorem State.tick_frame (h : s.clock + 1 < Config.clockRange) :
    s.tick = { s with clock := s.clock + 1, banks := s.tick.banks, carriages := s.tick.carriages, line := s.tick.line,
                      links := s.tick.links } := by
  rw [← State.tick_clock h]
  rfl

/-- When a rinse counter stands still (R77). -/
theorem State.rinseCounts_eq_false_iff (s : State) (b : Bank) : s.rinseCounts b = false ↔
    s.settings.rinseInterval = 0 ∨ (s.bank b).state = .parked ∨ (s.bank b).state = .faulted := by
  rw [State.rinseCounts_eq, decide_eq_false_iff_not]
  tauto

theorem State.tick_rinseCount (s : State) (b : Bank) : (s.tick.bank b).rinseCount =
    if s.settings.rinseInterval = 0 ∨ (s.bank b).state = .parked ∨ (s.bank b).state = .faulted
    then (s.bank b).rinseCount else (s.bank b).rinseCount + 1 := by
  simp only [State.tick_bank, BankRecord.tick, ← State.rinseCounts_eq_false_iff]
  cases s.rinseCounts b <;> rfl

/-- Settles O2: the moves of the part say what an empty queue brings, and the tick is read off record by record. -/
theorem emptyQueueTicksWhenNothingIsDue : Obligations.EmptyQueueTicksWhenNothingIsDue := by
  refine ⟨fun s hq => ?_, fun s hclock =>
    ⟨State.tick_frame hclock, fun b => ?_, State.tick_carriage s, rfl, State.tick_link s⟩⟩
  · rw [step_of_empty hq]
    exact ⟨State.ownStep_of_inReset, State.ownStep_of_nothing, State.ownStep_of_due⟩
  · rw [← State.tick_rinseCount, State.tick_bank]
    rfl

end Sys2Proof.Machine
end
